-- ==== Sys2Proof/Word.lean ====
section
/-! DEFINITION. The word types of the block (R8, R80: every value is unsigned and has a fixed width). -/

namespace Sys2Proof

/-- An interrupt vector or a priority value, 8 bits (R50 (3)). -/
abbrev Vec := BitVec 8

/-- The content of a 32-bit page register (R12). -/
abbrev Word32 := BitVec 32

/-- A 64-bit value: `BASE`, `VT`, MSR data (R35, R42, R58). -/
abbrev Word64 := BitVec 64

/-- One bit per vector: `ISR`, `TMR`, `IRR`, `PIB_x.bits` (R8, R22 to R24, R32). -/
abbrev VecSet := BitVec 256

/-- A command or response word on the command port (R80, R81, R85). -/
abbrev PortWord := BitVec 128

end Sys2Proof
end

