-- ==== Sys2Proof/Syntax.lean ====
section
/-! DEFINITION. The 23 commands of the command port (R82), one constructor for each row of spec/opcode_table.json,
with the fields R82 lists for it. -/

namespace Sys2Proof

/-- Delivery modes (R95), used in the ICR, in the LVT entries and in the command field `dmode`. -/
inductive DeliveryMode where
  | fixed
  | lowestPriority
  | smi
  | reserved3
  | nmi
  | init
  | sipi
  | extInt
deriving DecidableEq, Repr

/-- Destination modes (R81, R92). -/
inductive DestMode where
  | physical
  | logical
deriving DecidableEq, Repr

/-- Trigger modes (R81, R92, R93). -/
inductive Trigger where
  | edge
  | level
deriving DecidableEq, Repr

/-- The local pins of `LOCAL_INTERRUPT` (R211). -/
inductive Pin where
  | lint0
  | lint1
deriving DecidableEq, Repr

/-- The commands (R82). `unit` is the index of the addressed unit, `priv` says that the issuing context can perform
privileged operations (R81, R203). -/
inductive Instr where
  /-- `RESET`, R291. -/
  | reset (unit : Nat)
  /-- `INIT`, R293. -/
  | init (unit : Nat)
  /-- `READ_REG`, R221. -/
  | readReg (unit : Nat) (offset : Word32)
  /-- `WRITE_REG`, R222. -/
  | writeReg (unit : Nat) (offset : Word32) (value : Word32) (priv : Bool)
  /-- `READ_MSR`, R226. -/
  | readMsr (unit : Nat) (index : Word32)
  /-- `WRITE_MSR`, R227. -/
  | writeMsr (unit : Nat) (index : Word32) (value : Word64) (priv : Bool)
  /-- `GET_BASE`, R249. -/
  | getBase (unit : Nat)
  /-- `SET_BASE`, R250. -/
  | setBase (unit : Nat) (value : Word64)
  /-- `UPDATE_PPR`, R121. -/
  | updatePpr (unit : Nat)
  /-- `SIGNAL_IF_PENDING`, R123. -/
  | signalIfPending (unit : Nat)
  /-- `GET_NEXT`, R125. -/
  | getNext (unit : Nat)
  /-- `EOI`, R128; the value the guest wrote is ignored. -/
  | eoi (unit : Nat) (value : Word64)
  /-- `QUEUE_TO_SERVICE`, R131. -/
  | queueToService (unit : Nat) (vector : Vec)
  /-- `DEQUEUE_FROM_SERVICE`, R132. -/
  | dequeueFromService (unit : Nat) (vector : Vec)
  /-- `POST`, R152. -/
  | post (unit : Nat) (vector : Vec) (trig : Trigger) (tag : Word32)
  /-- `FOLD`, R156. -/
  | fold (unit : Nat)
  /-- `SET_INITIAL_COUNT`, R172. -/
  | setInitialCount (unit : Nat) (count : Word32)
  /-- `GET_CURRENT_COUNT`, R174. -/
  | getCurrentCount (unit : Nat)
  /-- `TIMER_EXPIRE`, R176. -/
  | timerExpire (unit : Nat)
  /-- `STOP_TIMER`, R178. -/
  | stopTimer (unit : Nat)
  /-- `SEND_IPI_FROM_ICR`, R205. -/
  | sendIpiFromIcr (unit : Nat) (priv : Bool)
  /-- `BUS_DELIVER`, R209; it names no unit, and the polarity is accepted and ignored. -/
  | busDeliver (vector : Vec) (dmode : DeliveryMode) (destMode : DestMode) (trig : Trigger) (polarity : Bool) (tag : Word32) (destMask : Word32) (priv : Bool)
  /-- `LOCAL_INTERRUPT`, R211. -/
  | localInterrupt (unit : Nat) (pin : Pin) (level : Bool) (priv : Bool)
deriving DecidableEq, Repr

end Sys2Proof
end

