-- ==== Sys2Proof/WellFormed.lean ====
section
/-! DEFINITION. What a command must satisfy to have a command word: the `unit` field has eight bits (R81). Every
other operand has its exact width in its type. A well-formed command may still name a unit that does not exist: the
port answers that one with `CONTRACT_VIOLATION` (R81). -/

namespace Sys2Proof

/-- The `unit` field of a command; `BUS_DELIVER` ignores the field and has none (R209). -/
def Instr.unit? : Instr → Option Nat
  | .reset u => some u
  | .init u => some u
  | .readReg u _ => some u
  | .writeReg u _ _ _ => some u
  | .readMsr u _ => some u
  | .writeMsr u _ _ _ => some u
  | .getBase u => some u
  | .setBase u _ => some u
  | .updatePpr u => some u
  | .signalIfPending u => some u
  | .getNext u => some u
  | .eoi u _ => some u
  | .queueToService u _ => some u
  | .dequeueFromService u _ => some u
  | .post u _ _ _ => some u
  | .fold u => some u
  | .setInitialCount u _ => some u
  | .getCurrentCount u => some u
  | .timerExpire u => some u
  | .stopTimer u => some u
  | .sendIpiFromIcr u _ => some u
  | .busDeliver _ _ _ _ _ _ _ _ => none
  | .localInterrupt u _ _ _ => some u

/-- A command is well formed when its unit index fits the eight bits of the `unit` field (R81). -/
def WellFormed (i : Instr) : Bool := i.unit?.all (· < 256)

end Sys2Proof
end

