-- ==== Sys2Proof/Decode.lean ====
section
/-! DEFINITION. The command word (R80 to R83, R105): the decoder, total on every 128-bit word, and the encoder.
Bits are numbered from 0 at the least significant end (R8). -/

namespace Sys2Proof

/-- Why a command word is no command. -/
inductive DecodeError where
  /-- `op` is not one of the 23 values of R82 (R105). -/
  | illegalOpcode (op : BitVec 8)
deriving DecidableEq, Repr

/-- The number of a delivery mode (R95). -/
def DeliveryMode.toBits : DeliveryMode → BitVec 3
  | .fixed => 0#3
  | .lowestPriority => 1#3
  | .smi => 2#3
  | .reserved3 => 3#3
  | .nmi => 4#3
  | .init => 5#3
  | .sipi => 6#3
  | .extInt => 7#3

/-- The delivery mode of a number (R95). -/
def DeliveryMode.ofBits (b : BitVec 3) : DeliveryMode :=
  match b.toNat with
  | 0 => .fixed
  | 1 => .lowestPriority
  | 2 => .smi
  | 3 => .reserved3
  | 4 => .nmi
  | 5 => .init
  | 6 => .sipi
  | _ => .extInt

/-- Destination mode bit: 0 physical, 1 logical (R81, R92). -/
def DestMode.toBool : DestMode → Bool
  | .physical => false
  | .logical => true

/-- The destination mode of a bit (R81, R92). -/
def DestMode.ofBool : Bool → DestMode
  | false => .physical
  | true => .logical

/-- Trigger mode bit: 0 edge, 1 level (R81, R92, R93). -/
def Trigger.toBool : Trigger → Bool
  | .edge => false
  | .level => true

/-- The trigger mode of a bit (R81, R92, R93). -/
def Trigger.ofBool : Bool → Trigger
  | false => .edge
  | true => .level

/-- The pin number (R82, R211). -/
def Pin.toBool : Pin → Bool
  | .lint0 => false
  | .lint1 => true

/-- The pin of a number (R82, R211). -/
def Pin.ofBool : Bool → Pin
  | false => .lint0
  | true => .lint1

/-- The fields of a command word (R81), the reserved bit 96 left out. -/
structure CommandFields where
  op : BitVec 8
  unit : BitVec 8 := 0
  vector : Vec := 0
  dmode : BitVec 3 := 0
  destMode : Bool := false
  trig : Bool := false
  lvl : Bool := false
  priv : Bool := false
  aux : Word32 := 0
  data : Word64 := 0
deriving DecidableEq, Repr

/-- The fields of a command word (R81). -/
def splitWord (w : PortWord) : CommandFields where
  op := w.extractLsb' 120 8
  unit := w.extractLsb' 112 8
  vector := w.extractLsb' 104 8
  dmode := w.extractLsb' 101 3
  destMode := w.getLsbD 100
  trig := w.getLsbD 99
  lvl := w.getLsbD 98
  priv := w.getLsbD 97
  aux := w.extractLsb' 64 32
  data := w.extractLsb' 0 64

/-- The command word with given fields, the reserved bit 96 zero (R81). -/
def joinWord (f : CommandFields) : PortWord :=
  f.op ++ f.unit ++ f.vector ++ f.dmode ++ BitVec.ofBool f.destMode ++ BitVec.ofBool f.trig ++ BitVec.ofBool f.lvl ++
    BitVec.ofBool f.priv ++ 0#1 ++ f.aux ++ f.data

/-- The command of given fields (R82); the fields a command does not use are not looked at (R83). -/
def decodeFields (f : CommandFields) : Except DecodeError Instr :=
  match f.op.toNat with
  | 0x01 => .ok (.reset f.unit.toNat)
  | 0x02 => .ok (.init f.unit.toNat)
  | 0x10 => .ok (.readReg f.unit.toNat f.aux)
  | 0x11 => .ok (.writeReg f.unit.toNat f.aux (f.data.extractLsb' 0 32) f.priv)
  | 0x12 => .ok (.readMsr f.unit.toNat f.aux)
  | 0x13 => .ok (.writeMsr f.unit.toNat f.aux f.data f.priv)
  | 0x14 => .ok (.getBase f.unit.toNat)
  | 0x15 => .ok (.setBase f.unit.toNat f.data)
  | 0x20 => .ok (.updatePpr f.unit.toNat)
  | 0x21 => .ok (.signalIfPending f.unit.toNat)
  | 0x22 => .ok (.getNext f.unit.toNat)
  | 0x23 => .ok (.eoi f.unit.toNat f.data)
  | 0x24 => .ok (.queueToService f.unit.toNat f.vector)
  | 0x25 => .ok (.dequeueFromService f.unit.toNat f.vector)
  | 0x30 => .ok (.post f.unit.toNat f.vector (Trigger.ofBool f.trig) f.aux)
  | 0x31 => .ok (.fold f.unit.toNat)
  | 0x40 => .ok (.setInitialCount f.unit.toNat (f.data.extractLsb' 0 32))
  | 0x41 => .ok (.getCurrentCount f.unit.toNat)
  | 0x42 => .ok (.timerExpire f.unit.toNat)
  | 0x43 => .ok (.stopTimer f.unit.toNat)
  | 0x52 => .ok (.sendIpiFromIcr f.unit.toNat f.priv)
  | 0x53 => .ok (.busDeliver f.vector (DeliveryMode.ofBits f.dmode) (DestMode.ofBool f.destMode) (Trigger.ofBool f.trig)
      f.lvl f.aux (f.data.extractLsb' 0 32) f.priv)
  | 0x54 => .ok (.localInterrupt f.unit.toNat (Pin.ofBool (f.data.getLsbD 0)) f.lvl f.priv)
  | _ => .error (.illegalOpcode f.op)

/-- The decoder: every 128-bit word is a command or an illegal opcode (R83, R105). -/
def decode (w : PortWord) : Except DecodeError Instr := decodeFields (splitWord w)

/-- The fields of a command's word (R82); unused fields are 0. -/
def encodeFields : Instr → CommandFields
  | .reset u => { op := 0x01, unit := BitVec.ofNat 8 u }
  | .init u => { op := 0x02, unit := BitVec.ofNat 8 u }
  | .readReg u off => { op := 0x10, unit := BitVec.ofNat 8 u, aux := off }
  | .writeReg u off x p => { op := 0x11, unit := BitVec.ofNat 8 u, aux := off, data := x.setWidth 64, priv := p }
  | .readMsr u idx => { op := 0x12, unit := BitVec.ofNat 8 u, aux := idx }
  | .writeMsr u idx x p => { op := 0x13, unit := BitVec.ofNat 8 u, aux := idx, data := x, priv := p }
  | .getBase u => { op := 0x14, unit := BitVec.ofNat 8 u }
  | .setBase u x => { op := 0x15, unit := BitVec.ofNat 8 u, data := x }
  | .updatePpr u => { op := 0x20, unit := BitVec.ofNat 8 u }
  | .signalIfPending u => { op := 0x21, unit := BitVec.ofNat 8 u }
  | .getNext u => { op := 0x22, unit := BitVec.ofNat 8 u }
  | .eoi u x => { op := 0x23, unit := BitVec.ofNat 8 u, data := x }
  | .queueToService u v => { op := 0x24, unit := BitVec.ofNat 8 u, vector := v }
  | .dequeueFromService u v => { op := 0x25, unit := BitVec.ofNat 8 u, vector := v }
  | .post u v t g => { op := 0x30, unit := BitVec.ofNat 8 u, vector := v, trig := t.toBool, aux := g }
  | .fold u => { op := 0x31, unit := BitVec.ofNat 8 u }
  | .setInitialCount u n => { op := 0x40, unit := BitVec.ofNat 8 u, data := n.setWidth 64 }
  | .getCurrentCount u => { op := 0x41, unit := BitVec.ofNat 8 u }
  | .timerExpire u => { op := 0x42, unit := BitVec.ofNat 8 u }
  | .stopTimer u => { op := 0x43, unit := BitVec.ofNat 8 u }
  | .sendIpiFromIcr u p => { op := 0x52, unit := BitVec.ofNat 8 u, priv := p }
  | .busDeliver v dm d t pol g m p =>
    { op := 0x53, vector := v, dmode := dm.toBits, destMode := d.toBool, trig := t.toBool, lvl := pol, aux := g,
      data := m.setWidth 64, priv := p }
  | .localInterrupt u pin l p =>
    { op := 0x54, unit := BitVec.ofNat 8 u, lvl := l, data := (BitVec.ofBool pin.toBool).setWidth 64, priv := p }

/-- The command word of a command (R81, R82). -/
def encode (i : Instr) : PortWord := joinWord (encodeFields i)

/-- The command the decoder reads from the `nbits` low bits of `w`, the opcode table's one 128-bit word (log 23). -/
def decodeTableWord (nbits w : Nat) : Option Instr :=
  match decode (BitVec.ofNat 128 (w % 2 ^ nbits)) with
  | .ok i => some i
  | .error _ => none

end Sys2Proof
end

