-- ==== Sys2Proof/Config.lean ====
section
/-! DEFINITION. The parameters of the block (R5, R6): what an implementation fixes for a run. They are plain data that
State carries (log 1), so a statement about every state is a statement about every configuration. The numbers of the
default tables stand in Machine/RegMap.lean. -/

namespace Sys2Proof

/-- The access mode of a unit (R36). `invalid` is a decode only, never a resting state. -/
inductive Mode where
  | disabled
  | xapic
  | x2apic
  | invalid
deriving DecidableEq, Repr

/-- The six LVT entries (R27). -/
inductive Lvt where
  | timer
  | thermal
  | perf
  | lint0
  | lint1
  | error
deriving DecidableEq, Repr

/-- The registers `REGMAP` places in the page (R53). A 256-bit register has eight fragments (R54). -/
inductive Reg where
  | id
  | version
  | tpr
  | apr
  | ppr
  | eoi
  | ldr
  | dfr
  | svr
  | isr (k : Fin 8)
  | tmr (k : Fin 8)
  | irr (k : Fin 8)
  | esr
  | icrLo
  | icrHi
  | lvt (which : Lvt)
  | timerIcr
  | timerCcr
  | timerDcr
deriving DecidableEq, Repr

/-- The parameter `VALID` (R6, R232): for each writable register the bits a guest write may set. The entries of EOI
and ESR on the MMIO path are "any value (ignored)" and need no mask. -/
structure ValidMasks where
  tpr : Word32
  ldr : Word32
  dfr : Word32
  svr : Word32
  icrLo : Word32
  icrHi : Word32
  /-- The 64-bit ICR of x2APIC mode. -/
  icr64 : Word64
  /-- EOI and ESR on the MSR path. -/
  eoiMsr : Word32
  esrMsr : Word32
  /-- The `LVT_TIMER` entry of a platform with TSC-deadline mode (log 20). -/
  lvtTimer : Word32
  lvtThermal : Word32
  lvtPerf : Word32
  lvtLint0 : Word32
  lvtLint1 : Word32
  lvtError : Word32
  timerIcr : Word32
  timerDcr : Word32
deriving DecidableEq, Repr

/-- The parameters of a run (R5, R6). `NCPU` is the length of the list of units that State holds. -/
structure Config where
  maxMode : Mode
  tscDeadlineAvail : Bool
  hwVersion : Word32
  apicBaseAddr : Word64
  msrBase : Word32
  /-- `REGMAP`: page offset and the register at it (R53). -/
  regMap : List (Nat × Reg)
  valid : ValidMasks
  /-- `ICR_COMBO_ILLEGAL`: (delivery mode, shorthand) pairs, `ICR_LO[10:8]` and `ICR_LO[19:18]` (R6, R227). -/
  icrComboIllegal : List (BitVec 3 × BitVec 2)
  busWide : Bool
  tagIpi : Word32
  tagTimer : Word32
  tagLint : Word32
deriving DecidableEq, Repr

end Sys2Proof
end

