-- ==== Sys2Proof/Machine/RegMap.lean ====
section
/-! DEFINITION. The default tables of the parameters: `REGMAP` (R53), `VALID` (R232), the access classes of the two
ports (R53, R220), the fixed transform between MSR indices and page offsets (R52), and the standard configuration
(R6, log 1). -/

namespace Sys2Proof

/-- The eight fragments of a 256-bit register at a stride of 16 bytes (R54). -/
def fragmentRows (first : Nat) (r : Fin 8 → Reg) : List (Nat × Reg) :=
  (List.finRange 8).map fun k => (first + 16 * k.val, r k)

/-- `REGMAP`: the register at each page offset (R53). -/
def standardRegMap : List (Nat × Reg) :=
  [(0x020, .id), (0x030, .version), (0x080, .tpr), (0x090, .apr), (0x0A0, .ppr), (0x0B0, .eoi), (0x0D0, .ldr),
    (0x0E0, .dfr), (0x0F0, .svr)] ++
  fragmentRows 0x100 .isr ++ fragmentRows 0x180 .tmr ++ fragmentRows 0x200 .irr ++
  [(0x280, .esr), (0x300, .icrLo), (0x310, .icrHi), (0x320, .lvt .timer), (0x330, .lvt .thermal), (0x340, .lvt .perf),
    (0x350, .lvt .lint0), (0x360, .lvt .lint1), (0x370, .lvt .error), (0x380, .timerIcr), (0x390, .timerCcr),
    (0x3E0, .timerDcr)]

/-- The access classes of `REGMAP`'s two mode columns (R53). -/
inductive Access where
  | ro
  | wo
  | rw
  | unavailable
deriving DecidableEq, Repr

/-- The column "xAPIC (MMIO)" of R53. -/
def Reg.mmioAccess : Reg → Access
  | .id => .ro
  | .version => .ro
  | .tpr => .rw
  | .apr => .ro
  | .ppr => .ro
  | .eoi => .wo
  | .ldr => .rw
  | .dfr => .rw
  | .svr => .rw
  | .isr _ => .ro
  | .tmr _ => .ro
  | .irr _ => .ro
  | .esr => .rw
  | .icrLo => .rw
  | .icrHi => .rw
  | .lvt _ => .rw
  | .timerIcr => .rw
  | .timerCcr => .ro
  | .timerDcr => .rw

/-- The column "x2APIC (MSR)" of R53. -/
def Reg.msrAccess : Reg → Access
  | .id => .ro
  | .version => .ro
  | .tpr => .rw
  | .apr => .unavailable
  | .ppr => .ro
  | .eoi => .wo
  | .ldr => .ro
  | .dfr => .unavailable
  | .svr => .rw
  | .isr _ => .ro
  | .tmr _ => .ro
  | .irr _ => .ro
  | .esr => .rw
  | .icrLo => .rw
  | .icrHi => .unavailable
  | .lvt _ => .rw
  | .timerIcr => .rw
  | .timerCcr => .ro
  | .timerDcr => .rw

/-- `VALID`: the masks of R232, on a platform with TSC-deadline mode (log 20). -/
def standardValid : ValidMasks where
  tpr := 0x000000FF
  ldr := 0xFF000000
  dfr := 0xF0000000
  svr := 0x000001FF
  icrLo := 0x000CCFFF
  icrHi := 0xFF000000
  icr64 := 0xFFFFFFFF000CCFFF
  eoiMsr := 0x00000000
  esrMsr := 0x00000000
  lvtTimer := 0x000700FF
  lvtThermal := 0x000107FF
  lvtPerf := 0x000107FF
  lvtLint0 := 0x0001A7FF
  lvtLint1 := 0x0001A7FF
  lvtError := 0x000100FF
  timerIcr := 0xFFFFFFFF
  timerDcr := 0x0000000B

/-- The configuration State.reset starts from: the defaults of R6; the four inputs of R5 are the model's (log 1). -/
def standardConfig : Config where
  maxMode := .x2apic
  tscDeadlineAvail := true
  hwVersion := 0x00050014
  apicBaseAddr := 0x00000000FEE00000
  msrBase := 0x800
  regMap := standardRegMap
  valid := standardValid
  icrComboIllegal := []
  busWide := false
  tagIpi := 0x1
  tagTimer := 0x2
  tagLint := 0x4

/-- `NCPU` in State.reset (log 1). -/
def standardNcpu : Nat := 4

/-- The register at a page offset, none for an undefined offset (R53). -/
def Config.regAt (c : Config) (offset : Nat) : Option Reg := c.regMap.lookup offset

/-- The VALID mask of an LVT entry; without TSC-deadline mode bit 18 of `LVT_TIMER` is reserved (R97, R232). -/
def Config.lvtMask (c : Config) : Lvt → Word32
  | .timer => if c.tscDeadlineAvail then c.valid.lvtTimer else c.valid.lvtTimer &&& ~~~(1#32 <<< 18)
  | .thermal => c.valid.lvtThermal
  | .perf => c.valid.lvtPerf
  | .lint0 => c.valid.lvtLint0
  | .lint1 => c.valid.lvtLint1
  | .error => c.valid.lvtError

/-- `VALID[reg]` on the MMIO path (R222, R232). A value written to EOI or ESR is ignored, and a read-only register is
never written. -/
def Config.mmioMask (c : Config) : Reg → Word32
  | .tpr => c.valid.tpr
  | .ldr => c.valid.ldr
  | .dfr => c.valid.dfr
  | .svr => c.valid.svr
  | .icrLo => c.valid.icrLo
  | .icrHi => c.valid.icrHi
  | .lvt l => c.lvtMask l
  | .timerIcr => c.valid.timerIcr
  | .timerDcr => c.valid.timerDcr
  | .eoi => BitVec.allOnes 32
  | .esr => BitVec.allOnes 32
  | .id => 0
  | .version => 0
  | .apr => 0
  | .ppr => 0
  | .isr _ => 0
  | .tmr _ => 0
  | .irr _ => 0
  | .timerCcr => 0

/-- `VALID64[reg]` on the MSR path: the MSR entry of R232 for the ICR, EOI and ESR, else the 32-bit mask (R227). -/
def Config.msrMask (c : Config) : Reg → Word64
  | .icrLo => c.valid.icr64
  | .eoi => c.valid.eoiMsr.setWidth 64
  | .esr => c.valid.esrMsr.setWidth 64
  | r => (c.mmioMask r).setWidth 64

/-- The page offset of an MSR index inside the range, `(idx - MSR_BASE) << 4` (R52). -/
def Config.msrOffset (c : Config) (idx : Word32) : Option Nat :=
  if c.msrBase.toNat ≤ idx.toNat ∧ idx.toNat ≤ c.msrBase.toNat + 0x3F then some ((idx.toNat - c.msrBase.toNat) * 16)
  else none

/-- The register an MSR index reaches in x2APIC mode: none outside the range, at an undefined offset, or where the
register is unavailable in that mode (R226, R227). -/
def Config.msrReg (c : Config) (idx : Word32) : Option Reg :=
  match c.msrOffset idx with
  | none => none
  | some off =>
    match c.regAt off with
    | none => none
    | some r => if r.msrAccess = .unavailable then none else some r

end Sys2Proof
end

