-- ==== Sys2Proof/Machine/TagStore.lean ====
section
/-! DEFINITION. The sparse store of the source tags `TAG[0..255]` (R33): (vector, tag) pairs in one canonical form,
vectors strictly rising and below 256, no entry equal to 0, which an unlisted vector reads as (R33: reset all 0; log 18).
It is the block's one addressed store: there is no data memory (20_memory.md). -/

namespace Sys2Proof.Machine

/-- The tags of a unit, sparse (R33). -/
abbrev TagStore := List (Nat × Word32)

/-- What a vector reads as when no entry lists it: the reset contents of R33. -/
def TagStore.unlisted : Word32 := 0

/-- `TAG[v]` (R33). -/
def TagStore.read : TagStore → Nat → Word32
  | [], _ => TagStore.unlisted
  | (k, x) :: rest, v => if k = v then x else TagStore.read rest v

/-- The entry of `v`, if it is not what an unlisted vector reads as, before the rest. -/
def TagStore.entry (v : Nat) (g : Word32) (rest : TagStore) : TagStore :=
  if g = TagStore.unlisted then rest else (v, g) :: rest

/-- `TAG[v] <- g` (R33): keeps the canonical form. -/
def TagStore.write : TagStore → Nat → Word32 → TagStore
  | [], v, g => TagStore.entry v g []
  | (k, x) :: rest, v, g =>
    if v < k then TagStore.entry v g ((k, x) :: rest)
    else if v = k then TagStore.entry v g rest
    else (k, x) :: TagStore.write rest v g

/-- The canonical form from a lower bound on: vectors at least `lo`, strictly rising, below 256, no unlisted value. -/
def TagStore.wfFrom (lo : Nat) : TagStore → Bool
  | [] => true
  | (k, x) :: rest => decide (lo ≤ k) && decide (k < 256) && decide (x ≠ TagStore.unlisted) && TagStore.wfFrom (k + 1) rest

/-- The canonical form. -/
def TagStore.wf (t : TagStore) : Bool := TagStore.wfFrom 0 t

end Sys2Proof.Machine
end

