-- ==== Sys2Proof/Machine/ApicUnit.lean ====
section
/-! DEFINITION. The state of one unit (10_state.md, R12 to R38) and the procedures that reset it (R291, R292). -/

namespace Sys2Proof.Machine

/-- A Pending-Interrupt Bitmap: 256 bits and its notification flag (R32). -/
structure Pib where
  bits : VecSet
  notify : Bool
deriving DecidableEq, Repr

/-- The state of a unit (R12 to R38). The registers EOI and TIMER_CCR have no storage (R18, R29). -/
structure ApicUnit where
  /-- ApicBaseValue (R35). -/
  base : Word64
  id : Word32
  version : Word32
  tpr : Word32
  apr : Word32
  ppr : Word32
  ldr : Word32
  dfr : Word32
  svr : Word32
  isr : VecSet
  tmr : VecSet
  irr : VecSet
  esr : Word32
  icrLo : Word32
  icrHi : Word32
  lvtTimer : Word32
  lvtThermal : Word32
  lvtPerf : Word32
  lvtLint0 : Word32
  lvtLint1 : Word32
  lvtError : Word32
  timerIcr : Word32
  timerDcr : Word32
  /-- The edge-triggered bitmap (R32). -/
  pibE : Pib
  /-- The level-triggered bitmap (R32). -/
  pibL : Pib
  /-- The source tags (R33). -/
  tag : TagStore
  /-- The hidden timer state (R34). -/
  timArmed : Bool
  timArmAt : Word64
  timDeadline : Word64
  timShift : BitVec 3
  /-- The outputs to the CPU core (R37, R38). -/
  intr : Bool
  nmi : Bool
  smi : Bool
  extint : Bool
deriving DecidableEq, Repr

/-- A unit as it is allocated, before its first reset: all zero (R44); no run shows it. -/
def ApicUnit.allocated : ApicUnit where
  base := 0
  id := 0
  version := 0
  tpr := 0
  apr := 0
  ppr := 0
  ldr := 0
  dfr := 0
  svr := 0
  isr := 0
  tmr := 0
  irr := 0
  esr := 0
  icrLo := 0
  icrHi := 0
  lvtTimer := 0
  lvtThermal := 0
  lvtPerf := 0
  lvtLint0 := 0
  lvtLint1 := 0
  lvtError := 0
  timerIcr := 0
  timerDcr := 0
  pibE := ⟨0, false⟩
  pibL := ⟨0, false⟩
  tag := []
  timArmed := false
  timArmAt := 0
  timDeadline := 0
  timShift := 0
  intr := false
  nmi := false
  smi := false
  extint := false

/-- The mode a base value decodes to: EN is bit 11, EXTD bit 10 (R35, R36). -/
def modeOf (base : Word64) : Mode :=
  match base.getLsbD 11, base.getLsbD 10 with
  | false, false => .disabled
  | true, false => .xapic
  | true, true => .x2apic
  | false, true => .invalid

/-- The mode of a unit (R36). -/
def ApicUnit.mode (u : ApicUnit) : Mode := modeOf u.base

/-- `isEnabled`: the hardware-enable bit (R36). -/
def ApicUnit.isEnabled (u : ApicUnit) : Bool := u.base.getLsbD 11

/-- The xAPIC-mode ID of unit i (R13). -/
def xapicId (i : Nat) : Word32 := BitVec.ofNat 32 i <<< 24

/-- The x2APIC-mode ID of unit i (R13). -/
def x2apicId (i : Nat) : Word32 := BitVec.ofNat 32 i

/-- The x2APIC-mode LDR of unit i: cluster `i[31:4]`, one-hot position `i[3:0]` (R19). -/
def x2apicLdr (i : Nat) : Word32 := ((BitVec.ofNat 32 i >>> 4) <<< 16) ||| (1#32 <<< (i % 16))

/-- An LVT register with only the mask bit set, the reset value of all six (R27). -/
def lvtMasked : Word32 := 0x00010000

/-- `REGS_RESET(i, full)` (R292): everything but `BASE` and the three signal flags. -/
def ApicUnit.regsReset (c : Config) (i : Nat) (full : Bool) (u : ApicUnit) : ApicUnit where
  base := u.base
  id := if full then xapicId i else u.id
  version := if full then c.hwVersion else u.version
  tpr := 0
  apr := 0
  ppr := 0
  ldr := if !full && decide (u.mode = .x2apic) then x2apicLdr i else 0
  dfr := 0xFFFFFFFF
  svr := 0x000000FF
  isr := 0
  tmr := 0
  irr := 0
  esr := 0
  icrLo := 0
  icrHi := 0
  lvtTimer := lvtMasked
  lvtThermal := lvtMasked
  lvtPerf := lvtMasked
  lvtLint0 := lvtMasked
  lvtLint1 := lvtMasked
  lvtError := lvtMasked
  timerIcr := 0
  timerDcr := 0
  pibE := ⟨0, false⟩
  pibL := ⟨0, false⟩
  tag := []
  timArmed := false
  timArmAt := 0
  timDeadline := 0
  timShift := 0
  intr := false
  nmi := u.nmi
  smi := u.smi
  extint := u.extint

/-- `BASE` after `RESET`: EN (bit 11) unless the platform disallows APICs, BSP (bit 8) for unit 0 (R35, R291). -/
def resetBase (c : Config) (i : Nat) : Word64 :=
  c.apicBaseAddr ||| (if c.maxMode = .disabled then 0#64 else 1#64 <<< 11) ||| (if i = 0 then 1#64 <<< 8 else 0#64)

/-- The unit part of `RESET` (R291). -/
def ApicUnit.powerOn (c : Config) (i : Nat) (u : ApicUnit) : ApicUnit :=
  { u.regsReset c i true with base := resetBase c i, nmi := false, smi := false, extint := false }

/-- The state `RESET` leaves in unit i (R297). -/
def ApicUnit.afterReset (c : Config) (i : Nat) : ApicUnit := ApicUnit.allocated.powerOn c i

end Sys2Proof.Machine
end

