-- ==== Sys2Proof/Machine/Response.lean ====
section
/-! DEFINITION. The response word: its status codes (R86, R261) and its layout (R85). -/

namespace Sys2Proof.Machine

/-- The ten kinds of a guest fault of the MSR path, k = 1 to 10 (R261). -/
inductive GpKind where
  /-- 1 INVALID_READ_MODE -/
  | invalidReadMode
  /-- 2 INVALID_WRITE_MODE -/
  | invalidWriteMode
  /-- 3 READ_RSVD_OR_UNKNOWN -/
  | readRsvdOrUnknown
  /-- 4 WRITE_RSVD_OR_UNKNOWN -/
  | writeRsvdOrUnknown
  /-- 5 READ_WRITE_ONLY -/
  | readWriteOnly
  /-- 6 WRITE_READ_ONLY -/
  | writeReadOnly
  /-- 7 WRITE_RSVD_BITS -/
  | writeRsvdBits
  /-- 8 WRITE_INVALID -/
  | writeInvalid
  /-- 9 READ_DISALLOWED_CONFIG -/
  | readDisallowedConfig
  /-- 10 WRITE_DISALLOWED_CONFIG -/
  | writeDisallowedConfig
deriving DecidableEq, Repr

/-- The statuses of a response (R86). -/
inductive Status where
  | ok
  | notPending
  | maskedByTpr
  | notAccepted
  | retryPrivileged
  | notClaimed
  | illegalCombination
  | gpFault (k : GpKind)
  | gpFaultBase
  | contractViolation
  | illegalOpcode
deriving DecidableEq, Repr

/-- The number k of a guest-fault kind (R261). -/
def GpKind.number : GpKind → BitVec 8
  | .invalidReadMode => 1
  | .invalidWriteMode => 2
  | .readRsvdOrUnknown => 3
  | .writeRsvdOrUnknown => 4
  | .readWriteOnly => 5
  | .writeReadOnly => 6
  | .writeRsvdBits => 7
  | .writeInvalid => 8
  | .readDisallowedConfig => 9
  | .writeDisallowedConfig => 10

/-- The code of a status (R86). -/
def Status.code : Status → BitVec 8
  | .ok => 0x00
  | .notPending => 0x01
  | .maskedByTpr => 0x02
  | .notAccepted => 0x03
  | .retryPrivileged => 0x04
  | .notClaimed => 0x05
  | .illegalCombination => 0x06
  | .gpFault k => 0x10 + k.number
  | .gpFaultBase => 0x1B
  | .contractViolation => 0xFE
  | .illegalOpcode => 0xFF

/-- The response word with given fields, the reserved bits 111:96 zero (R85). -/
def responseWord (status : Status) (vector : Vec) (aux : Word32) (data : Word64) : PortWord :=
  status.code ++ vector ++ 0#16 ++ aux ++ data

end Sys2Proof.Machine
end

