-- ==== Sys2Proof/Machine/State.lean ====
section
/-! DEFINITION. The state of the machine (10_state.md), the reasons a step can stop, and the state after reset. -/

namespace Sys2Proof.Machine

/-- The agents (R7). -/
inductive Agent where
  | owner (unit : Nat)
  | poster (k : Nat)
  | timerService (unit : Nat)
  | environment
deriving DecidableEq, Repr

/-- The CPU-level signal flags a send raises (R38, R200). -/
inductive Signal where
  | nmi
  | smi
  | extint
deriving DecidableEq, Repr

/-- The output events (R40). -/
inductive Event where
  | wake (unit : Nat)
  | busEoi (unit : Nat) (vector : Vec)
  | cpuInit (unit : Nat)
  | cpuSipi (unit : Nat) (vector : Vec)
deriving DecidableEq, Repr

/-- The atomic steps of the commands that take more than one (R70): `POST` (R152, R153), `FOLD` (R156), and the
sends (R200, R201) with the latch of `LOCAL_INTERRUPT` (R211). Their effects are in Machine/Atomic.lean. -/
inductive AtomicStep where
  /-- A Fixed or LowestPriority target: its hardware-enable bit (R200). `seen` is the bit when the command's first step
  has read the target's BASE, which a command reads once (R36, R314); else the bit is read in this step. -/
  | enableCheck (target : Nat) (seen : Option Bool)
  /-- `POST`: the early exits, a vector of 15 or less and a vector already pending (R152). -/
  | postRead (target : Nat) (vector : Vec)
  /-- `POST` step 1: the atomic bit-set and the tag (R152). -/
  | postSet (target : Nat) (vector : Vec) (trig : Trigger) (tag : Word32)
  /-- `POST` step 2: the atomic test-and-set of the flag, and the wake (R152). -/
  | postNotify (target : Nat) (trig : Trigger)
  /-- Raise one signal flag of a target (R200). -/
  | raiseSignal (target : Nat) (sig : Signal)
  /-- Emit one event (R200). -/
  | emitEvent (e : Event)
  /-- The atomic OR of send-illegal-vector into the sender's ESR (R202). -/
  | recordSendError (sender : Nat)
  /-- `FOLD` steps EN and LN (R156). -/
  | foldNotify (unit : Nat) (trig : Trigger)
  /-- `FOLD` steps E0 to E3 and L0 to L3 (R156). -/
  | foldWord (unit : Nat) (trig : Trigger) (k : Fin 4)
  /-- `LOCAL_INTERRUPT`: set `LVT_LINT0[14]` when the send was accepted (R211, R212). -/
  | latchLint0 (unit : Nat)
deriving DecidableEq, Repr

/-- What a command of several steps has found so far: `live`, whether the post it is making goes ahead (R152, R200);
`acc`, the result "accepted" of R204, or the variable `any` of R156. -/
structure Progress where
  live : Bool
  acc : Bool
deriving DecidableEq, Repr

/-- The status a command of several steps returns at its end. -/
inductive Finish where
  /-- This status, whatever was found. -/
  | always (status : Status)
  /-- `OK` when accepted, else `NOT_ACCEPTED` (R152, R209, R211). -/
  | accepted
deriving DecidableEq, Repr

/-- An outstanding command of several atomic steps: who issued it, what it found so far, the steps still to be made
and how it answers (R70, R311). -/
structure InFlight where
  agent : Agent
  progress : Progress
  todo : List AtomicStep
  finish : Finish
deriving DecidableEq, Repr

/-- What the agents and the Environment do next (R7, R70): the model's input script (log 4, log 5). -/
inductive Input where
  /-- An agent issues a command word, and no step of another agent falls inside the command. -/
  | issue (agent : Agent) (word : PortWord)
  /-- An agent issues a command word, and steps of other agents may fall between its atomic steps. -/
  | start (agent : Agent) (word : PortWord)
  /-- The next atomic step of an agent's outstanding command. -/
  | advance (agent : Agent)
  /-- The Environment moves `VT` on (R42). -/
  | time (vt : Word64)
  /-- The CPU core takes the NMI of a unit (R38). -/
  | takeNmi (unit : Nat)
  /-- The CPU core takes the SMI of a unit (R38). -/
  | takeSmi (unit : Nat)
deriving DecidableEq, Repr

/-- The state of the machine. `NCPU` is the length of `units` (R5, R276). -/
structure State where
  /-- The parameters, fixed for a run (R5, R6). -/
  cfg : Config
  /-- The units, `U(i)` at index i (R8). -/
  units : List ApicUnit
  /-- `OUT`, oldest event first (R40). -/
  out : List Event
  /-- `VT` (R42). -/
  vt : Word64
  /-- The outstanding commands of several atomic steps (R70, R311). -/
  inFlight : List InFlight
  /-- The last response word on the command port (R80, R85). -/
  rsp : PortWord
  /-- The issuer that response went to (R80). -/
  rspTo : Agent
  /-- The model's input script, next input first (log 4). -/
  inputs : List Input
deriving DecidableEq, Repr

/-- No error stops the block: "all are explicit return/state values" (R260). A guest fault is a response status, so
the machine has no fault that ends a run, and this type has no constructor. -/
inductive Fault where
deriving DecidableEq, Repr

/-- Why the machine's step refuses. No meaning of a command raises one. -/
inductive Refusal where
  /-- Raised by exec for a command that has no meaning yet. Safe. -/
  | notModelled (mnemonic : String)
  /-- Raised by step: a command issued by an agent that may not issue it, "a caller-contract violation with no defined
  behaviour" (R74, R305, U1). Safe. -/
  | wrongAgent
  /-- Raised by step: an agent issues a command while an earlier one of its own is outstanding (R311, U2). Safe. -/
  | reentrantCall
  /-- Raised by step: the script names an agent that has no outstanding command, so that no such step is enabled
  (R70). Safe. -/
  | nothingInFlight
  /-- Raised by step: a `VT` that goes back or lies beyond `2^64 - 2^40` (R170, U17). Safe. -/
  | clockPremise
deriving DecidableEq, Repr

/-- The machine right after reset: the state `RESET` leaves in every unit, `OUT` empty (R297). -/
def State.reset : State where
  cfg := standardConfig
  units := (List.range standardNcpu).map (ApicUnit.afterReset standardConfig)
  out := []
  vt := 0
  inFlight := []
  rsp := 0
  rspTo := .environment
  inputs := []

end Sys2Proof.Machine
end

