-- ==== Sys2Proof/Machine/Flags.lean ====
section
/-! DEFINITION. The priority and flag computations: `hi`, priority classes, `UPDATE_PPR`, the `INTR` flag of
`SIGNAL_IF_PENDING`, and the sticky ESR flags (R8, R90, R120 to R124, R263). -/

namespace Sys2Proof.Machine

/-- The largest vector below `n` in a set. -/
def highestBelow (r : VecSet) : Nat → Option Vec
  | 0 => none
  | n + 1 => if r.getLsbD n then some (BitVec.ofNat 8 n) else highestBelow r n

/-- `hi(R)`: the largest vector of a 256-bit register, none when it is all zero (R8). -/
def highest (r : VecSet) : Option Vec := highestBelow r 256

/-- `R[v]` of a 256-bit register (R8). -/
def hasVec (r : VecSet) (v : Vec) : Bool := r.getLsbD v.toNat

/-- `R[v] <- 1` (R8). -/
def setVec (r : VecSet) (v : Vec) : VecSet := r ||| (1#256 <<< v.toNat)

/-- `R[v] <- 0` (R8). -/
def clearVec (r : VecSet) (v : Vec) : VecSet := r &&& ~~~(1#256 <<< v.toNat)

/-- The priority class of a vector or priority value (R90). -/
def classOf (x : BitVec 8) : BitVec 4 := x.extractLsb' 4 4

/-- `ic`: the class of the highest in-service vector, 0 when none is in service (R120). -/
def serviceClass (isr : VecSet) : BitVec 4 :=
  match highest isr with
  | none => 0
  | some v => classOf v

/-- `tc`: the task-priority class (R120). -/
def taskClass (tpr : Word32) : BitVec 4 := tpr.extractLsb' 4 4

/-- The value `UPDATE_PPR` computes (R121). -/
def pprValue (tpr : Word32) (isr : VecSet) : Word32 :=
  if (serviceClass isr).toNat ≤ (taskClass tpr).toNat then (tpr.extractLsb' 0 8).setWidth 32
  else ((serviceClass isr) ++ 0#4).setWidth 32

/-- `UPDATE_PPR` (R121). -/
def ApicUnit.updatePpr (u : ApicUnit) : ApicUnit := { u with ppr := pprValue u.tpr u.isr }

/-- The software-enable bit of SVR (R21). -/
def ApicUnit.softEnabled (u : ApicUnit) : Bool := u.svr.getLsbD 8

/-- The value `SIGNAL_IF_PENDING` gives `INTR`: software-enabled, and the highest pending vector's class is above that
of the highest in-service vector, if there is one (R123). -/
def ApicUnit.intrValue (u : ApicUnit) : Bool :=
  u.softEnabled &&
    match highest u.irr, highest u.isr with
    | none, _ => false
    | some _, none => true
    | some p, some v => decide ((classOf v).toNat < (classOf p).toNat)

/-- `SIGNAL_IF_PENDING` (R123). -/
def ApicUnit.signalIfPending (u : ApicUnit) : ApicUnit := { u with intr := u.intrValue }

/-- `FOLD_REQ` (R39). -/
def ApicUnit.foldReq (u : ApicUnit) : Bool := u.pibE.notify || u.pibL.notify

/-- send-illegal-vector, `ESR[5]` (R25, R263). -/
def esrSendIllegal : Word32 := 1#32 <<< 5

/-- receive-illegal-vector, `ESR[6]` (R25, R263). -/
def esrReceiveIllegal : Word32 := 1#32 <<< 6

/-- illegal-register-address, `ESR[7]` (R25, R263). -/
def esrIllegalRegister : Word32 := 1#32 <<< 7

/-- The atomic OR of flags into ESR (R62 (e)). -/
def ApicUnit.orEsr (u : ApicUnit) (m : Word32) : ApicUnit := { u with esr := u.esr ||| m }

/-- Vectors 0 to 15 are illegal for delivery (R107). -/
def illegalVector (v : Vec) : Bool := decide (v.toNat ≤ 15)

end Sys2Proof.Machine
end

