-- ==== Sys2Proof/Machine/Ops.lean ====
section
/-! DEFINITION. The named operations over the state: units, the output trace, the response on the command port, the
guest fault, and what entering and leaving an interrupt are for this block (R125, R128, R270, R271). -/

namespace Sys2Proof.Machine

/-- `NCPU` (R5, R276). -/
def State.ncpu (s : State) : Nat := s.units.length

/-- `U(i) <- u`. -/
def State.setUnit (s : State) (i : Nat) (u : ApicUnit) : State := { s with units := s.units.set i u }

/-- `emit` (R8, R40): appends events to `OUT`. -/
def State.emit (s : State) (es : List Event) : State := { s with out := s.out ++ es }

/-- The response of the command (R80, R85). -/
def State.answer (s : State) (status : Status) (vector : Vec) (aux : Word32) (data : Word64) : State :=
  { s with rsp := responseWord status vector aux data }

/-- `return S`: a response with a status alone (R8, R85). -/
def State.respond (s : State) (status : Status) : State := s.answer status 0 0 0

/-- `return OK(data)` (R85). -/
def State.respondData (s : State) (data : Word64) : State := s.answer .ok 0 0 data

/-- `raise GpFault(k)`: a guest fault is returned to the caller as a status, and the faulting command changes nothing
else: no cause register, no saved address (R8, R260, R261). -/
def State.raiseGpFault (s : State) (k : GpKind) : State := s.respond (.gpFault k)

/-- `raise GP_FAULT_BASE` (R262). -/
def State.raiseGpFaultBase (s : State) : State := s.respond .gpFaultBase

/-- Run a command on the unit it addresses; a unit that does not exist answers `CONTRACT_VIOLATION` and nothing
changes (R81, log 7). -/
def onUnit (s : State) (i : Nat) (k : ApicUnit → State) : State :=
  match s.units[i]? with
  | none => s.respond .contractViolation
  | some u => k u

/-- Entering an interrupt, case (e) of `GET_NEXT`: the vector moves from IRR to ISR, PPR and INTR are recomputed and
the tag slot is cleared (R125, R270). -/
def ApicUnit.acknowledge (u : ApicUnit) (v : Vec) : ApicUnit :=
  let moved := { u with irr := clearVec u.irr v, isr := setVec u.isr v }
  let signalled := moved.updatePpr.signalIfPending
  { signalled with tag := signalled.tag.write v.toNat 0 }

/-- The level-triggered part of `EOI`: the TMR bit goes, and the LINT0 latch if its vector is `v` (R128, R212). -/
def ApicUnit.endLevel (u : ApicUnit) (v : Vec) : ApicUnit :=
  { u with
    tmr := clearVec u.tmr v
    lvtLint0 := if u.lvtLint0.extractLsb' 0 8 = v then u.lvtLint0 &&& ~~~(1#32 <<< 14) else u.lvtLint0 }

/-- Returning from an interrupt: what `EOI` does to the unit when `v` is its highest in-service vector (R128, R271). -/
def ApicUnit.endInterrupt (u : ApicUnit) (v : Vec) : ApicUnit :=
  let ended := if hasVec u.tmr v then u.endLevel v else u
  let cleared := { ended with isr := clearVec ended.isr v }
  cleared.updatePpr.signalIfPending

/-- `EOI` on unit i (R128): nothing when ISR is empty; a level-triggered vector is broadcast to the bus. -/
def State.endOfInterrupt (s : State) (i : Nat) (u : ApicUnit) : State :=
  match highest u.isr with
  | none => s
  | some v => (s.emit (if hasVec u.tmr v then [.busEoi i v] else [])).setUnit i (u.endInterrupt v)

end Sys2Proof.Machine
end

