-- ==== Sys2Proof/Machine/Countdown.lean ====
section
/-! DEFINITION. The countdown arithmetic of the local timer (R170 to R178). All VT arithmetic is unsigned 64-bit. -/

namespace Sys2Proof.Machine

/-- `DivShift(TIMER_DCR)`: bits 3, 1, 0 as a 3-bit value, plus one, mod 8 (R171). -/
def divShift (dcr : Word32) : BitVec 3 := (dcr.extractLsb' 3 1 ++ dcr.extractLsb' 0 2) + 1#3

/-- The timer mode field `LVT_TIMER[18:17]` (R93, R97). -/
def ApicUnit.timerMode (u : ApicUnit) : BitVec 2 := u.lvtTimer.extractLsb' 17 2

/-- `ARM(n)` at time `now` (R172). -/
def ApicUnit.arm (u : ApicUnit) (now : Word64) (n : Word32) : ApicUnit :=
  { u with
    timShift := divShift u.timerDcr
    timArmAt := now
    timDeadline := now + (n.setWidth 64 <<< (divShift u.timerDcr).toNat)
    timArmed := true }

/-- `STOP_TIMER` (R178). -/
def ApicUnit.stopTimer (u : ApicUnit) : ApicUnit := { u with timArmed := false }

/-- `SET_INITIAL_COUNT(n)` (R172). -/
def ApicUnit.setInitialCount (u : ApicUnit) (now : Word64) (n : Word32) : ApicUnit :=
  if n = 0 then { u with timerIcr := n }.stopTimer else { u with timerIcr := n }.arm now n

/-- `GET_CURRENT_COUNT` (R174): 0 in TSC-deadline mode (2), when stopped and from the deadline on. -/
def ApicUnit.currentCount (u : ApicUnit) (now : Word64) : Word32 :=
  if u.timerMode = 2#2 then 0
  else if u.timArmed = false then 0
  else if u.timDeadline.toNat ≤ now.toNat then 0
  else u.timerIcr - ((now - u.timArmAt) >>> u.timShift.toNat).setWidth 32

/-- The enabling condition of `TIMER_EXPIRE` (R176). -/
def ApicUnit.timerDue (u : ApicUnit) (now : Word64) : Bool := u.timArmed && decide (u.timDeadline.toNat ≤ now.toNat)

/-- The critical section of `TIMER_EXPIRE` when the timer is due (R176, R179): periodic mode (1) re-arms from now,
every other mode disarms. -/
def ApicUnit.expire (u : ApicUnit) (now : Word64) : ApicUnit :=
  if u.timerMode = 1#2 then u.arm now u.timerIcr else u.stopTimer

end Sys2Proof.Machine
end

