-- ==== Sys2Proof/Machine/Operands.lean ====
section
/-! DEFINITION. The operand forms: the registers behind the page (R53 to R57), the ICR and LVT fields (R92, R93), and
the destination decode `COMPUTE_DEST` (R191 to R197). -/

namespace Sys2Proof.Machine

/-- An LVT register (R27). -/
def ApicUnit.lvt (u : ApicUnit) : Lvt → Word32
  | .timer => u.lvtTimer
  | .thermal => u.lvtThermal
  | .perf => u.lvtPerf
  | .lint0 => u.lvtLint0
  | .lint1 => u.lvtLint1
  | .error => u.lvtError

/-- Stores an LVT register (R27). -/
def ApicUnit.setLvt (u : ApicUnit) (l : Lvt) (x : Word32) : ApicUnit :=
  match l with
  | .timer => { u with lvtTimer := x }
  | .thermal => { u with lvtThermal := x }
  | .perf => { u with lvtPerf := x }
  | .lint0 => { u with lvtLint0 := x }
  | .lint1 => { u with lvtLint1 := x }
  | .error => { u with lvtError := x }

/-- Fragment k of a 256-bit register, bits `32k+31:32k` (R54). -/
def fragment (r : VecSet) (k : Fin 8) : Word32 := r.extractLsb' (32 * k.val) 32

/-- Stores fragment k of a 256-bit register (R54, R56). -/
def setFragment (r : VecSet) (k : Fin 8) (x : Word32) : VecSet :=
  (r &&& ~~~((BitVec.allOnes 32).setWidth 256 <<< (32 * k.val))) ||| (x.setWidth 256 <<< (32 * k.val))

/-- The 32-bit value a register reads as at time `now`: EOI reads 0, TIMER_CCR is the current count (R55). -/
def ApicUnit.readReg (u : ApicUnit) (now : Word64) : Reg → Word32
  | .id => u.id
  | .version => u.version
  | .tpr => u.tpr
  | .apr => u.apr
  | .ppr => u.ppr
  | .eoi => 0
  | .ldr => u.ldr
  | .dfr => u.dfr
  | .svr => u.svr
  | .isr k => fragment u.isr k
  | .tmr k => fragment u.tmr k
  | .irr k => fragment u.irr k
  | .esr => u.esr
  | .icrLo => u.icrLo
  | .icrHi => u.icrHi
  | .lvt l => u.lvt l
  | .timerIcr => u.timerIcr
  | .timerCcr => u.currentCount now
  | .timerDcr => u.timerDcr

/-- Stores a value in a register, with no validation and no side effect; EOI and TIMER_CCR store nothing (R56). -/
def ApicUnit.storeReg (u : ApicUnit) (r : Reg) (x : Word32) : ApicUnit :=
  match r with
  | .id => { u with id := x }
  | .version => { u with version := x }
  | .tpr => { u with tpr := x }
  | .apr => { u with apr := x }
  | .ppr => { u with ppr := x }
  | .eoi => u
  | .ldr => { u with ldr := x }
  | .dfr => { u with dfr := x }
  | .svr => { u with svr := x }
  | .isr k => { u with isr := setFragment u.isr k x }
  | .tmr k => { u with tmr := setFragment u.tmr k x }
  | .irr k => { u with irr := setFragment u.irr k x }
  | .esr => { u with esr := x }
  | .icrLo => { u with icrLo := x }
  | .icrHi => { u with icrHi := x }
  | .lvt l => u.setLvt l x
  | .timerIcr => { u with timerIcr := x }
  | .timerCcr => u
  | .timerDcr => { u with timerDcr := x }

/-- `PageRead32` (R55): 0 at an undefined offset. -/
def ApicUnit.pageRead32 (c : Config) (now : Word64) (u : ApicUnit) (offset : Nat) : Word32 :=
  match c.regAt offset with
  | none => 0
  | some r => u.readReg now r

/-- `PageWrite32` (R56): stores nothing at an undefined offset. -/
def ApicUnit.pageWrite32 (c : Config) (u : ApicUnit) (offset : Nat) (x : Word32) : ApicUnit :=
  match c.regAt offset with
  | none => u
  | some r => u.storeReg r x

/-- Byte `a` of the 4096-byte Register Page, little-endian; bytes of no register read 0 (R12, R57). -/
def ApicUnit.pageByte (c : Config) (now : Word64) (u : ApicUnit) (a : Nat) : BitVec 8 :=
  if a % 16 < 4 ∧ a < 4096 then (u.pageRead32 c now (a - a % 16)).extractLsb' (8 * (a % 16)) 8 else 0

/-- `ICR_LO[10:8]` as a delivery mode; the LVT entries and the command field use the same numbers (R92, R93, R95). -/
def deliveryModeField (x : Word32) : DeliveryMode := DeliveryMode.ofBits (x.extractLsb' 8 3)

/-- `ICR_LO[15]` and LVT `[15]` (R92, R93). -/
def triggerField (x : Word32) : Trigger := Trigger.ofBool (x.getLsbD 15)

/-- `ICR_LO[11]` (R92). -/
def destModeField (x : Word32) : DestMode := DestMode.ofBool (x.getLsbD 11)

/-- The vector field `[7:0]` of ICR_LO and of an LVT entry (R92, R93). -/
def vectorField (x : Word32) : Vec := x.extractLsb' 0 8

/-- `ICR_LO[19:18]`: 0 none, 1 self, 2 all including self, 3 all excluding self (R92). -/
def shorthandField (x : Word32) : BitVec 2 := x.extractLsb' 18 2

/-- The mask bit `[16]` of an LVT entry (R93). -/
def lvtIsMasked (x : Word32) : Bool := x.getLsbD 16

/-- The destination of a send: 32 bits of ICR_HI in x2APIC mode, else `ICR_HI[31:24]` (R100, R205). -/
def ApicUnit.icrDest (u : ApicUnit) : Word32 :=
  if u.mode = .x2apic then u.icrHi else (u.icrHi.extractLsb' 24 8).setWidth 32

/-- The all-ones destination: `0xFFFF_FFFF` in the 32-bit form, `0xFF` in the 8-bit form (R191). -/
def broadcastMask (wide : Bool) : Word32 := if wide then 0xFFFFFFFF else 0x000000FF

/-- `Match(t, m)`: one target's logical match, by the target's mode and, outside x2APIC mode, its DFR (R194). -/
def ApicUnit.logicalMatch (u : ApicUnit) (m : Word32) : Bool :=
  if u.mode = .x2apic then
    decide (m.extractLsb' 16 16 = u.ldr.extractLsb' 16 16) && decide (m.extractLsb' 0 16 &&& u.ldr.extractLsb' 0 16 ≠ 0)
  else if u.dfr.extractLsb' 28 4 = 0xF#4 then decide (m.extractLsb' 0 8 &&& u.ldr.extractLsb' 24 8 ≠ 0)
  else if u.dfr.extractLsb' 28 4 = 0x0#4 then
    decide (m.extractLsb' 4 4 = u.ldr.extractLsb' 28 4) && decide (m.extractLsb' 0 4 &&& u.ldr.extractLsb' 24 4 ≠ 0)
  else false

/-- Every unit index, ascending. -/
def State.allUnits (s : State) : List Nat := List.range s.ncpu

/-- `PhysSet` (R192): the broadcast test comes first (90_conflicts.md C2). -/
def State.physSet (s : State) (m bcast : Word32) : List Nat :=
  if m = bcast then s.allUnits else if m.toNat < s.ncpu then [m.toNat] else []

/-- Whether unit `t` exists and matches a logical destination. -/
def State.unitMatches (s : State) (m : Word32) (t : Nat) : Bool :=
  match s.units[t]? with
  | none => false
  | some u => u.logicalMatch m

/-- `LogSet` (R193). -/
def State.logSet (s : State) (m bcast : Word32) : List Nat :=
  if m = 0 then [] else if m = bcast then s.allUnits else s.allUnits.filter (s.unitMatches m)

/-- The whole 8-bit TPR of unit `t`, as arbitration compares it (R195). -/
def State.tprOf (s : State) (t : Nat) : Nat :=
  match s.units[t]? with
  | none => 0
  | some u => (u.tpr.extractLsb' 0 8).toNat

/-- `Arbitrate(S)`: the lowest TPR, ties to the highest index (R195). -/
def State.arbitrate (s : State) (targets : List Nat) : List Nat :=
  match (targets.map s.tprOf).min? with
  | none => []
  | some p => ((targets.filter fun t => s.tprOf t == p).max?).toList

/-- `COMPUTE_DEST` (R191): none is the status `ILLEGAL_COMBINATION` (R196). -/
def State.computeDest (s : State) (destMask : Word32) (destMode : DestMode) (dm : DeliveryMode) (wide : Bool) :
    Option (List Nat) :=
  let m := if wide then destMask else (destMask.extractLsb' 0 8).setWidth 32
  if dm = .lowestPriority ∧ destMode = .physical then none
  else
    let targets := match destMode with
      | .physical => s.physSet m (broadcastMask wide)
      | .logical => s.logSet m (broadcastMask wide)
    some (if dm = .lowestPriority then s.arbitrate targets else targets)

/-- The units whose BASE `COMPUTE_DEST` reads: `Match` reads the mode of every unit, and the physical decode and the two
whole-set cases of the logical decode read none (R191 to R194, R63). -/
def State.destReads (s : State) (destMask : Word32) (destMode : DestMode) (wide : Bool) : List Nat :=
  let m := if wide then destMask else (destMask.extractLsb' 0 8).setWidth 32
  match destMode with
  | .physical => []
  | .logical => if m = 0 ∨ m = broadcastMask wide then [] else s.allUnits

end Sys2Proof.Machine
end

