-- ==== Sys2Proof/Machine/Atomic.lean ====
section
/-! DEFINITION. The commands of several atomic steps (R70): the effect of each step, the steps of a post, a fold and a
send, and a command's plan, which a run takes whole or one step at a time (log 5). -/

namespace Sys2Proof.Machine

/-- The bitmap a trigger mode chooses (R152). -/
def ApicUnit.pib (u : ApicUnit) : Trigger → Pib
  | .edge => u.pibE
  | .level => u.pibL

/-- Stores the bitmap of a trigger mode. -/
def ApicUnit.setPib (u : ApicUnit) (t : Trigger) (p : Pib) : ApicUnit :=
  match t with
  | .edge => { u with pibE := p }
  | .level => { u with pibL := p }

/-- The bits of 64-bit word k of a bitmap, `64k+63:64k` (R32, R91). -/
def wordMask (k : Fin 4) : VecSet := (BitVec.allOnes 64).setWidth 256 <<< (64 * k.val)

/-- `POST` step 1: the bit-set and the tag, ORed (R152). -/
def ApicUnit.stagePost (u : ApicUnit) (v : Vec) (trig : Trigger) (tag : Word32) : ApicUnit :=
  let p := u.pib trig
  { u.setPib trig { p with bits := setVec p.bits v } with tag := u.tag.write v.toNat (u.tag.read v.toNat ||| tag) }

/-- `POST` step 2 on the unit: the flag is set (R152). -/
def ApicUnit.setNotify (u : ApicUnit) (trig : Trigger) : ApicUnit :=
  u.setPib trig { u.pib trig with notify := true }

/-- `FOLD` step EN or LN: the flag is cleared (R156). -/
def ApicUnit.clearNotify (u : ApicUnit) (trig : Trigger) : ApicUnit :=
  u.setPib trig { u.pib trig with notify := false }

/-- `FOLD` step Ek or Lk on the registers: the drained fragment f of word k goes into IRR, and out of TMR (edge) or into
TMR (level) (R156). -/
def ApicUnit.drainWord (u : ApicUnit) (trig : Trigger) (k : Fin 4) : ApicUnit :=
  let p := u.pib trig
  let f := p.bits &&& wordMask k
  let drained := u.setPib trig { p with bits := p.bits &&& ~~~(wordMask k) }
  { drained with
    irr := u.irr ||| f
    tmr := match trig with
      | .edge => u.tmr &&& ~~~f
      | .level => u.tmr ||| f }

/-- Raises a signal flag (R38, R200). -/
def ApicUnit.raiseSignal (u : ApicUnit) (sig : Signal) : ApicUnit :=
  match sig with
  | .nmi => { u with nmi := true }
  | .smi => { u with smi := true }
  | .extint => { u with extint := true }

/-- Change one unit, if it exists. -/
def State.mapUnit (s : State) (i : Nat) (f : ApicUnit → ApicUnit) : State :=
  match s.units[i]? with
  | none => s
  | some u => s.setUnit i (f u)

/-- A test of one unit, false if it does not exist. -/
def State.unitHas (s : State) (i : Nat) (p : ApicUnit → Bool) : Bool :=
  match s.units[i]? with
  | none => false
  | some u => p u

/-- The effect of one atomic step (R152, R156, R200, R202, R211). The steps of a post that does not go ahead change
nothing. -/
def atomicStep (a : AtomicStep) (s : State) (p : Progress) : State × Progress :=
  match a with
  | .enableCheck t seen => (s, { p with live := seen.getD (s.unitHas t ApicUnit.isEnabled) })
  | .postRead t v =>
    if p.live = false then (s, p)
    else if illegalVector v then (s.mapUnit t (·.orEsr esrReceiveIllegal), { p with live := false })
    else if s.unitHas t (fun u => hasVec u.irr v) then (s, { live := false, acc := true })
    else (s, p)
  | .postSet t v trig tag => if p.live then (s.mapUnit t (·.stagePost v trig tag), p) else (s, p)
  | .postNotify t trig =>
    if p.live then
      ((s.emit (if s.unitHas t (fun u => (u.pib trig).notify) then [] else [.wake t])).mapUnit t (·.setNotify trig),
        { p with acc := true })
    else (s, p)
  | .raiseSignal t sig => (s.mapUnit t (·.raiseSignal sig), { p with acc := true })
  | .emitEvent e => (s.emit [e], { p with acc := true })
  | .recordSendError t => (s.mapUnit t (·.orEsr esrSendIllegal), p)
  | .foldNotify t trig => (s.mapUnit t (·.clearNotify trig), p)
  | .foldWord t trig k =>
    let any := p.acc || s.unitHas t (fun u => decide ((u.pib trig).bits &&& wordMask k ≠ 0))
    let last := decide (trig = .level ∧ k = 3)
    (s.mapUnit t (fun u => if last && any then (u.drainWord trig k).signalIfPending else u.drainWord trig k),
      { p with acc := any })
  | .latchLint0 t =>
    if p.acc then (s.mapUnit t (fun u => { u with lvtLint0 := u.lvtLint0 ||| 1#32 <<< 14 }), p) else (s, p)

/-- Several atomic steps with no step of another agent between them. -/
def runSteps : List AtomicStep → State → Progress → State × Progress
  | [], s, p => (s, p)
  | a :: rest, s, p => runSteps rest (atomicStep a s p).1 (atomicStep a s p).2

/-- A command under way: the state after its first atomic step, what it found, the steps still to be made, and how it
answers. -/
structure Plan where
  state : State
  progress : Progress
  todo : List AtomicStep
  finish : Finish
deriving DecidableEq, Repr

/-- A command that is over with its first atomic step. -/
def Plan.done (s : State) (status : Status) : Plan :=
  { state := s, progress := ⟨true, false⟩, todo := [], finish := .always status }

/-- The status of a finished command. -/
def Finish.status (f : Finish) (p : Progress) : Status :=
  match f with
  | .always st => st
  | .accepted => if p.acc then .ok else .notAccepted

/-- The command run to its end with no step of another agent between, and its response. -/
def Plan.complete (p : Plan) : State :=
  let r := runSteps p.todo p.state p.progress
  r.1.respond (p.finish.status r.2)

/-- A plan on the unit a command addresses (R81). -/
def planOnUnit (s : State) (i : Nat) (k : ApicUnit → Plan) : Plan :=
  match s.units[i]? with
  | none => Plan.done s .contractViolation
  | some u => k u

/-- The steps of `POST` (R152, R153). -/
def postSteps (t : Nat) (v : Vec) (trig : Trigger) (tag : Word32) : List AtomicStep :=
  [.postRead t v, .postSet t v trig tag, .postNotify t trig]

/-- The ten steps of `FOLD` (R156). -/
def foldSteps (i : Nat) : List AtomicStep :=
  [.foldNotify i .edge, .foldWord i .edge 0, .foldWord i .edge 1, .foldWord i .edge 2, .foldWord i .edge 3,
    .foldNotify i .level, .foldWord i .level 0, .foldWord i .level 1, .foldWord i .level 2, .foldWord i .level 3]

/-- The hardware-enable bit of unit `t` where the first step of a command has read its BASE, `read` being the units it has
read; none where the command has not read that BASE yet. A command reads a BASE once (R36, R314, log 5). -/
def State.enableSeen (s : State) (read : List Nat) (t : Nat) : Option Bool :=
  if t ∈ read then some (s.unitHas t ApicUnit.isEnabled) else none

/-- What `SEND_INTERRUPT` does for one target, by delivery mode (R200); `seen` is its enable bit if the command knows it. -/
def targetSteps (v : Vec) (trig : Trigger) (dm : DeliveryMode) (tag : Word32) (seen : Nat → Option Bool) (t : Nat) :
    List AtomicStep :=
  match dm with
  | .fixed => .enableCheck t (seen t) :: postSteps t v trig tag
  | .lowestPriority => .enableCheck t (seen t) :: postSteps t v trig tag
  | .smi => [.raiseSignal t .smi]
  | .nmi => [.raiseSignal t .nmi]
  | .init => [.emitEvent (.cpuInit t)]
  | .sipi => [.emitEvent (.cpuSipi t v)]
  | .extInt => [.raiseSignal t .extint]
  | .reserved3 => []

/-- The steps of `SEND_INTERRUPT` (R200 to R202): the targets in ascending order, then the sender's error flag. -/
def sendSteps (sender : Option Nat) (v : Vec) (trig : Trigger) (dm : DeliveryMode) (targets : List Nat)
    (tag : Word32) (seen : Nat → Option Bool) : List AtomicStep :=
  targets.flatMap (targetSteps v trig dm tag seen) ++
    if dm = .fixed ∧ illegalVector v then sender.toList.map .recordSendError else []

/-- `SEND_INTERRUPT` (R199, R200): INIT and SIPI need a privileged context and otherwise do nothing (R203). `read` are the
units whose BASE the command's first step has read. -/
def sendPlan (s : State) (sender : Option Nat) (v : Vec) (trig : Trigger) (dm : DeliveryMode) (targets : List Nat)
    (tag : Word32) (priv : Bool) (read : List Nat) (after : List AtomicStep) (finish : Finish) : Plan :=
  if (dm = .init ∨ dm = .sipi) ∧ priv = false then Plan.done s .retryPrivileged
  else
    { state := s
      progress := ⟨true, false⟩
      todo := sendSteps sender v trig dm targets tag (s.enableSeen read) ++ after
      finish := finish }

end Sys2Proof.Machine
end

