-- ==== Sys2Proof/Machine/WriteEffects.lean ====
section
/-! DEFINITION. The write effect of every writable register (R235 to R246), and the send from the ICR that a write of it
triggers (R205). `x` is the value to store: masked on the MMIO path, checked on the MSR path. -/

namespace Sys2Proof.Machine

/-- A TPR write (R235). -/
def ApicUnit.writeTpr (u : ApicUnit) (x : Word32) : ApicUnit :=
  { u with tpr := (x.extractLsb' 0 8).setWidth 32 }.updatePpr.signalIfPending

/-- Sets the mask bit of all six LVT entries (R237). -/
def ApicUnit.maskAllLvts (u : ApicUnit) : ApicUnit :=
  { u with
    lvtTimer := u.lvtTimer ||| 1#32 <<< 16
    lvtThermal := u.lvtThermal ||| 1#32 <<< 16
    lvtPerf := u.lvtPerf ||| 1#32 <<< 16
    lvtLint0 := u.lvtLint0 ||| 1#32 <<< 16
    lvtLint1 := u.lvtLint1 ||| 1#32 <<< 16
    lvtError := u.lvtError ||| 1#32 <<< 16 }

/-- An SVR write: software-enable going from 1 to 0 masks every LVT entry (R237). -/
def ApicUnit.writeSvr (u : ApicUnit) (x : Word32) : ApicUnit :=
  if u.softEnabled && !x.getLsbD 8 then { u with svr := x }.maskAllLvts else { u with svr := x }

/-- The delivery mode an LVT write is checked with: the timer and error entries have none and are Fixed (R93, R243). -/
def lvtWriteMode (l : Lvt) (x : Word32) : DeliveryMode :=
  match l with
  | .timer => .fixed
  | .error => .fixed
  | .thermal => deliveryModeField x
  | .perf => deliveryModeField x
  | .lint0 => deliveryModeField x
  | .lint1 => deliveryModeField x

/-- An LVT write: keeps the remote-IRR bit 14; a Fixed entry with an illegal vector is stored and recorded (R243). -/
def ApicUnit.writeLvt (u : ApicUnit) (l : Lvt) (x : Word32) : ApicUnit :=
  let stored := u.setLvt l ((u.lvt l &&& 0x00004000#32) ||| x)
  if lvtWriteMode l x = .fixed ∧ illegalVector (vectorField x) then stored.orEsr esrSendIllegal else stored

/-- The shorthand's target set (R205): none where there is no shorthand. -/
def State.shorthandSet (s : State) (i : Nat) (sh : BitVec 2) : Option (List Nat) :=
  if sh = 1#2 then some [i]
  else if sh = 2#2 then some s.allUnits
  else if sh = 3#2 then some (s.allUnits.filter (· ≠ i))
  else none

/-- The target set of a send from the ICR: a shorthand bypasses `COMPUTE_DEST`; none is `ILLEGAL_COMBINATION` (R205). -/
def State.icrTargets (s : State) (i : Nat) (u : ApicUnit) : Option (List Nat) :=
  match s.shorthandSet i (shorthandField u.icrLo) with
  | some targets => some targets
  | none =>
    s.computeDest u.icrDest (destModeField u.icrLo) (deliveryModeField u.icrLo) (decide (u.mode = .x2apic))

/-- The units whose BASE the first step of a send from the ICR reads: the sender's, and those `COMPUTE_DEST` reads when no
shorthand bypasses it (R205). -/
def State.icrReads (s : State) (i : Nat) (u : ApicUnit) : List Nat :=
  match s.shorthandSet i (shorthandField u.icrLo) with
  | some _ => [i]
  | none => i :: s.destReads u.icrDest (destModeField u.icrLo) (decide (u.mode = .x2apic))

/-- INIT level de-assert: delivery mode INIT, level 0, trigger level (R207). -/
def initDeassert (lo : Word32) : Bool :=
  decide (deliveryModeField lo = .init) && !lo.getLsbD 14 && decide (triggerField lo = .level)

/-- `SEND_IPI_FROM_ICR` of unit i, whose state is `u` in `s` (R205). -/
def sendFromIcr (s : State) (i : Nat) (u : ApicUnit) (priv : Bool) : Plan :=
  if initDeassert u.icrLo then Plan.done s .ok
  else
    match s.icrTargets i u with
    | none => Plan.done s .illegalCombination
    | some targets =>
      sendPlan s (some i) (vectorField u.icrLo) (triggerField u.icrLo) (deliveryModeField u.icrLo) targets s.cfg.tagIpi
        priv (s.icrReads i u) [] (.always .ok)

/-- An ICR_LO write stores, then sends (R241). -/
def writeIcrLo (s : State) (i : Nat) (u : ApicUnit) (x : Word32) (priv : Bool) : Plan :=
  sendFromIcr (s.setUnit i { u with icrLo := x }) i { u with icrLo := x } priv

/-- A write of the 64-bit ICR stores both halves, then sends (R242). -/
def writeIcr64 (s : State) (i : Nat) (u : ApicUnit) (x : Word64) (priv : Bool) : Plan :=
  sendFromIcr (s.setUnit i { u with icrHi := x.extractLsb' 32 32, icrLo := x.extractLsb' 0 32 }) i
    { u with icrHi := x.extractLsb' 32 32, icrLo := x.extractLsb' 0 32 } priv

/-- The write effect of a register with a 32-bit value (R235 to R246). A register with no write effect is read-only on
both paths (R247). -/
def writeEffect (s : State) (i : Nat) (u : ApicUnit) (r : Reg) (x : Word32) (priv : Bool) : Plan :=
  match r with
  | .tpr => Plan.done (s.setUnit i (u.writeTpr x)) .ok
  | .eoi => Plan.done (s.endOfInterrupt i u) .ok
  | .svr => Plan.done (s.setUnit i (u.writeSvr x)) .ok
  | .ldr => Plan.done (s.setUnit i (u.storeReg .ldr x)) .ok
  | .dfr => Plan.done (s.setUnit i (u.storeReg .dfr (x ||| 0x0FFFFFFF#32))) .ok
  | .esr => Plan.done (s.setUnit i (u.storeReg .esr 0)) .ok
  | .icrHi => Plan.done (s.setUnit i (u.storeReg .icrHi x)) .ok
  | .icrLo => writeIcrLo s i u x priv
  | .lvt l => Plan.done (s.setUnit i (u.writeLvt l x)) .ok
  | .timerIcr => Plan.done (s.setUnit i (u.setInitialCount s.vt x)) .ok
  | .timerDcr => Plan.done (s.setUnit i (u.storeReg .timerDcr x)) .ok
  | .id => Plan.done s .ok
  | .version => Plan.done s .ok
  | .apr => Plan.done s .ok
  | .ppr => Plan.done s .ok
  | .isr _ => Plan.done s .ok
  | .tmr _ => Plan.done s .ok
  | .irr _ => Plan.done s .ok
  | .timerCcr => Plan.done s .ok

end Sys2Proof.Machine
end

