-- ==== Sys2Proof/Machine/Access.lean ====
section
/-! DEFINITION. The register access layer and the mode state machine: `READ_REG`, `WRITE_REG`, `READ_MSR`, `WRITE_MSR`,
`GET_BASE`, `SET_BASE` (R220 to R253). -/

namespace Sys2Proof.Machine

/-- An MMIO offset the port cannot serve: not a multiple of 16, or above 0x3F0 (R59, R221). -/
def badOffset (off : Word32) : Bool := decide (off.extractLsb' 0 4 ≠ 0) || decide (0x3F0 < off.toNat)

/-- `READ_REG` (R221, R224): a read of an undefined offset answers 0 and sets `ESR[7]`. -/
def execReadReg (i : Nat) (off : Word32) (s : State) : Host.Outcome State Fault Refusal :=
  .next (onUnit s i fun u =>
    if badOffset off then s.respond .contractViolation
    else if u.mode ≠ .xapic then s.respond .notClaimed
    else match s.cfg.regAt off.toNat with
      | none => (s.setUnit i (u.orEsr esrIllegalRegister)).respondData 0
      | some _ => s.respondData ((u.pageRead32 s.cfg s.vt off.toNat).setWidth 64))

/-- `WRITE_REG` up to the end of its first atomic step (R222): violations are ignored or masked. -/
def planWriteReg (i : Nat) (off : Word32) (x : Word32) (priv : Bool) (s : State) : Plan :=
  planOnUnit s i fun u =>
    if badOffset off then Plan.done s .contractViolation
    else if u.mode ≠ .xapic then Plan.done s .notClaimed
    else match s.cfg.regAt off.toNat with
      | none => Plan.done s .ok
      | some r => if r.mmioAccess = .ro then Plan.done s .ok else writeEffect s i u r (x &&& s.cfg.mmioMask r) priv

/-- `WRITE_REG` (R222). -/
def execWriteReg (i : Nat) (off : Word32) (x : Word32) (priv : Bool) (s : State) : Host.Outcome State Fault Refusal :=
  .next (planWriteReg i off x priv s).complete

/-- `READ_MSR` (R226): the checks in their order; the ICR is one 64-bit register. -/
def execReadMsr (i : Nat) (idx : Word32) (s : State) : Host.Outcome State Fault Refusal :=
  .next (onUnit s i fun u =>
    if s.cfg.maxMode ≠ .x2apic then s.raiseGpFault .readDisallowedConfig
    else if u.mode ≠ .x2apic then s.raiseGpFault .invalidReadMode
    else match s.cfg.msrReg idx with
      | none => s.raiseGpFault .readRsvdOrUnknown
      | some r =>
        if r.msrAccess = .wo then s.raiseGpFault .readWriteOnly
        else if r = .icrLo then s.respondData (u.icrHi ++ u.icrLo)
        else s.respondData ((u.readReg s.vt r).setWidth 64))

/-- A faulting first step: nothing changes but the response (R227, R260). -/
def Plan.gpFault (s : State) (k : GpKind) : Plan := Plan.done s (.gpFault k)

/-- `WRITE_MSR` up to the end of its first atomic step: the checks in their order, then the write effect (R227). -/
def planWriteMsr (i : Nat) (idx : Word32) (x : Word64) (priv : Bool) (s : State) : Plan :=
  planOnUnit s i fun u =>
    if s.cfg.maxMode ≠ .x2apic then Plan.gpFault s .writeDisallowedConfig
    else if u.mode ≠ .x2apic then Plan.gpFault s .invalidWriteMode
    else match s.cfg.msrReg idx with
      | none => Plan.gpFault s .writeRsvdOrUnknown
      | some r =>
        if r.msrAccess = .ro then Plan.gpFault s .writeReadOnly
        else if r ≠ .icrLo ∧ x.extractLsb' 32 32 ≠ 0 then Plan.gpFault s .writeRsvdBits
        else if x &&& ~~~(s.cfg.msrMask r) ≠ 0 then Plan.gpFault s .writeRsvdBits
        else if r = .icrLo ∧ (x.extractLsb' 8 3, x.extractLsb' 18 2) ∈ s.cfg.icrComboIllegal then
          Plan.gpFault s .writeInvalid
        else if r = .icrLo then writeIcr64 s i u x priv
        else writeEffect s i u r (x.extractLsb' 0 32) priv

/-- `WRITE_MSR` (R227). -/
def execWriteMsr (i : Nat) (idx : Word32) (x : Word64) (priv : Bool) (s : State) : Host.Outcome State Fault Refusal :=
  .next (planWriteMsr i idx x priv s).complete

/-- `GET_BASE` (R249). -/
def execGetBase (i : Nat) (s : State) : Host.Outcome State Fault Refusal :=
  .next (onUnit s i fun u => s.respondData u.base)

/-- The bits of a base value outside BSP, EXTD, EN and the base address (R250). -/
def baseReservedMask : Word64 := ~~~0x0000000FFFFFFD00#64

/-- The order Disabled < xAPIC < x2APIC (R250). -/
def modeRank : Mode → Nat
  | .disabled => 0
  | .xapic => 1
  | .x2apic => 2
  | .invalid => 3

/-- The legal transitions (R251). -/
def legalTransition (cur new : Mode) : Bool :=
  match cur, new with
  | .disabled, .disabled => true
  | .disabled, .xapic => true
  | .xapic, .disabled => true
  | .xapic, .xapic => true
  | .xapic, .x2apic => true
  | .x2apic, .disabled => true
  | .x2apic, .x2apic => true
  | _, _ => false

/-- The checks of `SET_BASE` (R250). -/
def baseRejected (c : Config) (u : ApicUnit) (x : Word64) : Bool :=
  decide (x &&& baseReservedMask ≠ 0) || decide (x.extractLsb' 12 24 ≠ c.apicBaseAddr.extractLsb' 12 24) ||
    decide (modeOf x = .invalid) || decide (modeRank c.maxMode < modeRank (modeOf x)) || !legalTransition u.mode (modeOf x)

/-- The effect of an accepted `SET_BASE` (R252). -/
def ApicUnit.changeBase (c : Config) (i : Nat) (u : ApicUnit) (x : Word64) : ApicUnit :=
  match u.mode, modeOf x with
  | .disabled, .xapic => { u.regsReset c i true with base := x }
  | .xapic, .x2apic => { u with id := x2apicId i, ldr := x2apicLdr i, base := x }
  | _, _ => { u with base := x }

/-- `SET_BASE` (R250): a rejected value changes nothing. -/
def execSetBase (i : Nat) (x : Word64) (s : State) : Host.Outcome State Fault Refusal :=
  .next (onUnit s i fun u =>
    if baseRejected s.cfg u x then s.raiseGpFaultBase else (s.setUnit i (u.changeBase s.cfg i x)).respond .ok)

end Sys2Proof.Machine
end

