-- ==== Sys2Proof/Machine/Posting.lean ====
section
/-! DEFINITION. The interrupt fold engine: `POST` and `FOLD` (R150 to R159). -/

namespace Sys2Proof.Machine

/-- `POST` (R152): its steps on a target that exists. -/
def planPost (t : Nat) (v : Vec) (trig : Trigger) (tag : Word32) (s : State) : Plan :=
  planOnUnit s t fun _ =>
    { state := s, progress := ⟨true, false⟩, todo := postSteps t v trig tag, finish := .accepted }

/-- `POST` (R152). -/
def execPost (t : Nat) (v : Vec) (trig : Trigger) (tag : Word32) (s : State) : Host.Outcome State Fault Refusal :=
  .next (planPost t v trig tag s).complete

/-- `FOLD` (R156): its ten steps. -/
def planFold (i : Nat) (s : State) : Plan :=
  planOnUnit s i fun _ =>
    { state := s, progress := ⟨true, false⟩, todo := foldSteps i, finish := .always .ok }

/-- `FOLD` (R156). -/
def execFold (i : Nat) (s : State) : Host.Outcome State Fault Refusal :=
  .next (planFold i s).complete

end Sys2Proof.Machine
end

