-- ==== Sys2Proof/Machine/Priority.lean ====
section
/-! DEFINITION. The priority arbitrator: `UPDATE_PPR`, `SIGNAL_IF_PENDING`, `GET_NEXT`, `EOI`, `QUEUE_TO_SERVICE`,
`DEQUEUE_FROM_SERVICE` (R120 to R133). -/

namespace Sys2Proof.Machine

/-- `UPDATE_PPR` (R121). -/
def execUpdatePpr (i : Nat) (s : State) : Host.Outcome State Fault Refusal :=
  .next (onUnit s i fun u => (s.setUnit i u.updatePpr).respond .ok)

/-- `SIGNAL_IF_PENDING` (R123). -/
def execSignalIfPending (i : Nat) (s : State) : Host.Outcome State Fault Refusal :=
  .next (onUnit s i fun u => (s.setUnit i u.signalIfPending).respond .ok)

/-- `GET_NEXT`, the cases (a) to (e) in their order (R125). -/
def execGetNext (i : Nat) (s : State) : Host.Outcome State Fault Refusal :=
  .next (onUnit s i fun u =>
    if u.isEnabled = false ∨ u.softEnabled = false then s.respond .notPending
    else match highest u.irr with
      | none => s.respond .notPending
      | some v =>
        if (classOf v).toNat ≤ (taskClass u.tpr).toNat then s.answer .maskedByTpr v 0 0
        else if u.ppr.extractLsb' 0 8 ≠ 0 ∧ (classOf v).toNat ≤ (u.ppr.extractLsb' 4 4).toNat then s.respond .notPending
        else (s.setUnit i (u.acknowledge v)).answer .ok v (u.tag.read v.toNat) 0)

/-- `EOI` (R128); the written value is ignored. -/
def execEoi (i : Nat) (_value : Word64) (s : State) : Host.Outcome State Fault Refusal :=
  .next (onUnit s i fun u => (s.endOfInterrupt i u).respond .ok)

/-- `QUEUE_TO_SERVICE` on the unit (R131). -/
def ApicUnit.queueToService (u : ApicUnit) (v : Vec) : ApicUnit :=
  { u with irr := clearVec u.irr v, isr := setVec u.isr v }.updatePpr

/-- `DEQUEUE_FROM_SERVICE` on the unit (R132). -/
def ApicUnit.dequeueFromService (u : ApicUnit) (v : Vec) : ApicUnit :=
  { u with isr := clearVec u.isr v, irr := setVec u.irr v }.updatePpr

/-- `QUEUE_TO_SERVICE` (R131). -/
def execQueueToService (i : Nat) (v : Vec) (s : State) : Host.Outcome State Fault Refusal :=
  .next (onUnit s i fun u => (s.setUnit i (u.queueToService v)).respond .ok)

/-- `DEQUEUE_FROM_SERVICE` (R132). -/
def execDequeueFromService (i : Nat) (v : Vec) (s : State) : Host.Outcome State Fault Refusal :=
  .next (onUnit s i fun u => (s.setUnit i (u.dequeueFromService v)).respond .ok)

end Sys2Proof.Machine
end

