-- ==== Sys2Proof/Machine/ResetCommands.lean ====
section
/-! DEFINITION. The commands `RESET` and `INIT` (R291, R293). -/

namespace Sys2Proof.Machine

/-- `RESET` (R291). `OUT` is not changed. -/
def execReset (i : Nat) (s : State) : Host.Outcome State Fault Refusal :=
  .next (onUnit s i fun u => (s.setUnit i (u.powerOn s.cfg i)).respond .ok)

/-- `INIT` (R293): ID, VERSION, BASE and the signal flags keep. -/
def execInit (i : Nat) (s : State) : Host.Outcome State Fault Refusal :=
  .next (onUnit s i fun u => (s.setUnit i (u.regsReset s.cfg i false)).respond .ok)

end Sys2Proof.Machine
end

