-- ==== Sys2Proof/Machine/Sending.lean ====
section
/-! DEFINITION. The destination mapper's commands: `SEND_IPI_FROM_ICR`, `BUS_DELIVER`, `LOCAL_INTERRUPT` (R190 to
R212). -/

namespace Sys2Proof.Machine

/-- `SEND_IPI_FROM_ICR` (R205): the first atomic step reads the ICR and computes the targets. -/
def planSendIpiFromIcr (i : Nat) (priv : Bool) (s : State) : Plan :=
  planOnUnit s i fun u => sendFromIcr s i u priv

/-- `SEND_IPI_FROM_ICR` (R205). -/
def execSendIpiFromIcr (i : Nat) (priv : Bool) (s : State) : Host.Outcome State Fault Refusal :=
  .next (planSendIpiFromIcr i priv s).complete

/-- `BUS_DELIVER` (R209): no sender, the unit field and the polarity ignored (log 13). -/
def planBusDeliver (v : Vec) (dm : DeliveryMode) (destMode : DestMode) (trig : Trigger) (_polarity : Bool) (tag : Word32)
    (destMask : Word32) (priv : Bool) (s : State) : Plan :=
  match s.computeDest destMask destMode dm s.cfg.busWide with
  | none => Plan.done s .illegalCombination
  | some targets => sendPlan s none v trig dm targets tag priv (s.destReads destMask destMode s.cfg.busWide) [] .accepted

/-- `BUS_DELIVER` (R209). -/
def execBusDeliver (v : Vec) (dm : DeliveryMode) (destMode : DestMode) (trig : Trigger) (polarity : Bool) (tag : Word32)
    (destMask : Word32) (priv : Bool) (s : State) : Host.Outcome State Fault Refusal :=
  .next (planBusDeliver v dm destMode trig polarity tag destMask priv s).complete

/-- The LVT entry a pin is wired to (R211). -/
def pinLvt : Pin → Lvt
  | .lint0 => .lint0
  | .lint1 => .lint1

/-- A Fixed local interrupt at an asserted pin (R211): LINT0 with trigger level is latched, and not delivered again while
the latch is set; LINT1 never latches (R212). -/
def localFixed (s : State) (i : Nat) (u : ApicUnit) (pin : Pin) (priv : Bool) : Plan :=
  let e := u.lvt (pinLvt pin)
  let latching := decide (pin = .lint0) && decide (triggerField e = .level)
  if latching && u.lvtLint0.getLsbD 14 then Plan.done s .ok
  else
    sendPlan s (some i) (vectorField e) (triggerField e) .fixed [i] s.cfg.tagLint priv [i]
      (if latching then [.latchLint0 i] else []) .accepted

/-- `LOCAL_INTERRUPT` up to the end of its first atomic step (R211). -/
def planLocalInterrupt (i : Nat) (pin : Pin) (level : Bool) (priv : Bool) (s : State) : Plan :=
  planOnUnit s i fun u =>
    let e := u.lvt (pinLvt pin)
    if u.isEnabled = false then Plan.done s .notAccepted
    else if lvtIsMasked e then Plan.done s .notAccepted
    else match deliveryModeField e with
      | .extInt => Plan.done (s.setUnit i { u with extint := level }) .ok
      | .fixed => if level then localFixed s i u pin priv else Plan.done s .ok
      | .smi => if level then sendPlan s (some i) (vectorField e) .edge .smi [i] s.cfg.tagLint priv [i] [] (.always .ok)
          else Plan.done s .ok
      | .nmi => if level then sendPlan s (some i) (vectorField e) .edge .nmi [i] s.cfg.tagLint priv [i] [] (.always .ok)
          else Plan.done s .ok
      | .init => if level then sendPlan s (some i) (vectorField e) .edge .init [i] s.cfg.tagLint priv [i] [] (.always .ok)
          else Plan.done s .ok
      | .lowestPriority => if level then Plan.done s .notAccepted else Plan.done s .ok
      | .sipi => if level then Plan.done s .notAccepted else Plan.done s .ok
      | .reserved3 => if level then Plan.done s .notAccepted else Plan.done s .ok

/-- `LOCAL_INTERRUPT` (R211). -/
def execLocalInterrupt (i : Nat) (pin : Pin) (level : Bool) (priv : Bool) (s : State) : Host.Outcome State Fault Refusal :=
  .next (planLocalInterrupt i pin level priv s).complete

end Sys2Proof.Machine
end

