-- ==== Sys2Proof/Machine/TimerCommands.lean ====
section
/-! DEFINITION. The local timer: `SET_INITIAL_COUNT`, `GET_CURRENT_COUNT`, `TIMER_EXPIRE`, `STOP_TIMER` (R170 to R183). -/

namespace Sys2Proof.Machine

/-- `SET_INITIAL_COUNT` (R172). -/
def execSetInitialCount (i : Nat) (n : Word32) (s : State) : Host.Outcome State Fault Refusal :=
  .next (onUnit s i fun u => (s.setUnit i (u.setInitialCount s.vt n)).respond .ok)

/-- `GET_CURRENT_COUNT` (R174). -/
def execGetCurrentCount (i : Nat) (s : State) : Host.Outcome State Fault Refusal :=
  .next (onUnit s i fun u => s.respondData ((u.currentCount s.vt).setWidth 64))

/-- `TIMER_EXPIRE` (R176): the critical section, then the post unless the entry is masked. -/
def planTimerExpire (i : Nat) (s : State) : Plan :=
  planOnUnit s i fun u =>
    if u.timerDue s.vt then
      { state := s.setUnit i (u.expire s.vt)
        progress := ⟨true, false⟩
        todo := if lvtIsMasked u.lvtTimer then [] else postSteps i (vectorField u.lvtTimer) .edge s.cfg.tagTimer
        finish := .always .ok }
    else Plan.done s .ok

/-- `TIMER_EXPIRE` (R176). -/
def execTimerExpire (i : Nat) (s : State) : Host.Outcome State Fault Refusal :=
  .next (planTimerExpire i s).complete

/-- `STOP_TIMER` (R178). -/
def execStopTimer (i : Nat) (s : State) : Host.Outcome State Fault Refusal :=
  .next (onUnit s i fun u => (s.setUnit i u.stopTimer).respond .ok)

end Sys2Proof.Machine
end

