-- ==== Sys2Proof/Machine/Dispatch.lean ====
section
/-! DEFINITION. The meaning of every command (R82). -/

namespace Sys2Proof.Machine

/-- One arm per command (R82). -/
def exec (i : Instr) (s : State) : Host.Outcome State Fault Refusal :=
  match i with
  | .reset u => Sys2Proof.Machine.execReset u s
  | .init u => Sys2Proof.Machine.execInit u s
  | .readReg u off => Sys2Proof.Machine.execReadReg u off s
  | .writeReg u off x p => Sys2Proof.Machine.execWriteReg u off x p s
  | .readMsr u idx => Sys2Proof.Machine.execReadMsr u idx s
  | .writeMsr u idx x p => Sys2Proof.Machine.execWriteMsr u idx x p s
  | .getBase u => Sys2Proof.Machine.execGetBase u s
  | .setBase u x => Sys2Proof.Machine.execSetBase u x s
  | .updatePpr u => Sys2Proof.Machine.execUpdatePpr u s
  | .signalIfPending u => Sys2Proof.Machine.execSignalIfPending u s
  | .getNext u => Sys2Proof.Machine.execGetNext u s
  | .eoi u x => Sys2Proof.Machine.execEoi u x s
  | .queueToService u v => Sys2Proof.Machine.execQueueToService u v s
  | .dequeueFromService u v => Sys2Proof.Machine.execDequeueFromService u v s
  | .post u v t g => Sys2Proof.Machine.execPost u v t g s
  | .fold u => Sys2Proof.Machine.execFold u s
  | .setInitialCount u n => Sys2Proof.Machine.execSetInitialCount u n s
  | .getCurrentCount u => Sys2Proof.Machine.execGetCurrentCount u s
  | .timerExpire u => Sys2Proof.Machine.execTimerExpire u s
  | .stopTimer u => Sys2Proof.Machine.execStopTimer u s
  | .sendIpiFromIcr u p => Sys2Proof.Machine.execSendIpiFromIcr u p s
  | .busDeliver v dm d t pol g m p => Sys2Proof.Machine.execBusDeliver v dm d t pol g m p s
  | .localInterrupt u pin l p => Sys2Proof.Machine.execLocalInterrupt u pin l p s

end Sys2Proof.Machine
end

