-- ==== Sys2Proof/Machine/Schedule.lean ====
section
/-! DEFINITION. Who may issue a command (R82, R305), how the command port takes one (R80, R105, R311), and how the atomic
steps of several agents are interleaved (R70, R73): what one input of the script does. -/

namespace Sys2Proof.Machine

/-- The column "who" of R82, with the table of R305: the owner alone (O), any agent (A, T), the Environment (E). DESIGN
CHOICE (log 25): R7 gives one owner per unit, and who may send an owner-only word that names no unit is open; here `owner k`
is an agent for every k, so such a word is taken from `owner k` of its own index k alone. -/
def mayIssue (a : Agent) : Instr → Bool
  | .reset _ => decide (a = .environment)
  | .init u => decide (a = .owner u) || decide (a = .environment)
  | .readReg u _ => decide (a = .owner u)
  | .writeReg u _ _ _ => decide (a = .owner u)
  | .readMsr u _ => decide (a = .owner u)
  | .writeMsr u _ _ _ => decide (a = .owner u)
  | .getBase u => decide (a = .owner u)
  | .setBase u _ => decide (a = .owner u)
  | .updatePpr u => decide (a = .owner u)
  | .signalIfPending u => decide (a = .owner u)
  | .getNext u => decide (a = .owner u)
  | .eoi u _ => decide (a = .owner u)
  | .queueToService u _ => decide (a = .owner u)
  | .dequeueFromService u _ => decide (a = .owner u)
  | .post _ _ _ _ => true
  | .fold u => decide (a = .owner u)
  | .setInitialCount u _ => decide (a = .owner u)
  | .getCurrentCount u => decide (a = .owner u)
  | .timerExpire _ => true
  | .stopTimer u => decide (a = .owner u)
  | .sendIpiFromIcr u _ => decide (a = .owner u)
  | .busDeliver _ _ _ _ _ _ _ _ => true
  | .localInterrupt _ _ _ _ => true

/-- An agent that may issue a command: the one R7 and R305 name for it. -/
def usualIssuer : Instr → Agent
  | .reset _ => .environment
  | .init u => .owner u
  | .readReg u _ => .owner u
  | .writeReg u _ _ _ => .owner u
  | .readMsr u _ => .owner u
  | .writeMsr u _ _ _ => .owner u
  | .getBase u => .owner u
  | .setBase u _ => .owner u
  | .updatePpr u => .owner u
  | .signalIfPending u => .owner u
  | .getNext u => .owner u
  | .eoi u _ => .owner u
  | .queueToService u _ => .owner u
  | .dequeueFromService u _ => .owner u
  | .post _ _ _ _ => .poster 0
  | .fold u => .owner u
  | .setInitialCount u _ => .owner u
  | .getCurrentCount u => .owner u
  | .timerExpire u => .timerService u
  | .stopTimer u => .owner u
  | .sendIpiFromIcr u _ => .owner u
  | .busDeliver _ _ _ _ _ _ _ _ => .poster 0
  | .localInterrupt _ _ _ _ => .poster 0

/-- The issuer withFetchWord gives a command word; a word that is no command may come from any agent (log 24). -/
def issuerOf (w : PortWord) : Agent :=
  match decode w with
  | .ok i => usualIssuer i
  | .error _ => .poster 0

/-- The commands that may take more than one atomic step (R70), with their plan; every other command is one atomic step
and has none. -/
def planOf (i : Instr) (s : State) : Option Plan :=
  match i with
  | .writeReg u off x p => some (planWriteReg u off x p s)
  | .writeMsr u idx x p => some (planWriteMsr u idx x p s)
  | .post u v t g => some (planPost u v t g s)
  | .fold u => some (planFold u s)
  | .timerExpire u => some (planTimerExpire u s)
  | .sendIpiFromIcr u p => some (planSendIpiFromIcr u p s)
  | .busDeliver v dm d t pol g m p => some (planBusDeliver v dm d t pol g m p s)
  | .localInterrupt u pin l p => some (planLocalInterrupt u pin l p s)
  | .reset _ => none
  | .init _ => none
  | .readReg _ _ => none
  | .readMsr _ _ => none
  | .getBase _ => none
  | .setBase _ _ => none
  | .updatePpr _ => none
  | .signalIfPending _ => none
  | .getNext _ => none
  | .eoi _ _ => none
  | .queueToService _ _ => none
  | .dequeueFromService _ _ => none
  | .setInitialCount _ _ => none
  | .getCurrentCount _ => none
  | .stopTimer _ => none

/-- Whether an agent has an outstanding command (R311). -/
def State.busy (s : State) (a : Agent) : Bool := s.inFlight.any fun c => decide (c.agent = a)

/-- The response goes to its issuer (R80). -/
def State.answerTo (s : State) (a : Agent) : State := { s with rspTo := a }

/-- The outcome of a whole command, its response given to the issuer. -/
def answerOutcome (a : Agent) : Host.Outcome State Fault Refusal → Host.Outcome State Fault Refusal
  | .next s => .next (s.answerTo a)
  | .fault r => .fault r
  | .refused r => .refused r

/-- The command port takes a word from an agent: an agent with an outstanding command is refused (R311), an unknown
opcode answers `ILLEGAL_OPCODE` (R105), an agent that may not issue the command is refused (R305). DESIGN CHOICE (log 25):
the agent's right is tested before the unit exists, so an owner-only word for a unit of NCPU or more from any other agent is
refused (U1), and only from `owner` of that index answers `CONTRACT_VIOLATION` (R81, U3). -/
def takeWord (a : Agent) (w : PortWord) (s : State) (run : Instr → Host.Outcome State Fault Refusal) :
    Host.Outcome State Fault Refusal :=
  if s.busy a then .refused .reentrantCall
  else
    match decode w with
    | .error _ => .next ((s.respond .illegalOpcode).answerTo a)
    | .ok i => if mayIssue a i then run i else .refused .wrongAgent

/-- A command after its first atomic step: over when no step is left, else outstanding (R70). -/
def State.begin (a : Agent) (p : Plan) : State :=
  match p.todo with
  | [] => p.complete.answerTo a
  | _ :: _ =>
    { p.state with
      inFlight := p.state.inFlight ++ [{ agent := a, progress := p.progress, todo := p.todo, finish := p.finish }] }

/-- The command of an agent, issued with steps of other agents between its own (R70). -/
def startCommand (a : Agent) (s : State) (i : Instr) : Host.Outcome State Fault Refusal :=
  match planOf i s with
  | some p => .next (State.begin a p)
  | none => answerOutcome a (exec i s)

/-- Ends the outstanding command of an agent. -/
def State.dropInFlight (s : State) (a : Agent) : State :=
  { s with inFlight := s.inFlight.filter fun c => decide (c.agent ≠ a) }

/-- Stores what is left of the outstanding command of an agent. -/
def State.keepInFlight (s : State) (c : InFlight) : State :=
  { s with inFlight := s.inFlight.map fun d => if d.agent = c.agent then c else d }

/-- The next atomic step of an outstanding command; after its last one the command answers (R70, R80). -/
def advanceCommand (c : InFlight) (s : State) : State :=
  match c.todo with
  | [] => ((s.dropInFlight c.agent).respond (c.finish.status c.progress)).answerTo c.agent
  | a :: rest =>
    let r := atomicStep a s c.progress
    match rest with
    | [] => ((r.1.dropInFlight c.agent).respond (c.finish.status r.2)).answerTo c.agent
    | _ :: _ => r.1.keepInFlight { c with progress := r.2, todo := rest }

/-- The largest `VT` of the timer arithmetic's premise, `2^64 - 2^40` (R170). -/
def vtBound : Nat := 2 ^ 64 - 2 ^ 40

/-- What one input does (R7, R42, R70, R80). -/
def runInput (inp : Input) (s : State) : Host.Outcome State Fault Refusal :=
  match inp with
  | .issue a w => takeWord a w s fun i => answerOutcome a (exec i s)
  | .start a w => takeWord a w s (startCommand a s)
  | .advance a =>
    match s.inFlight.find? fun c => decide (c.agent = a) with
    | none => .refused .nothingInFlight
    | some c => .next (advanceCommand c s)
  | .time vt =>
    if s.vt.toNat ≤ vt.toNat ∧ vt.toNat ≤ vtBound then .next { s with vt := vt } else .refused .clockPremise
  | .takeNmi i => .next (s.mapUnit i fun u => { u with nmi := false })
  | .takeSmi i => .next (s.mapUnit i fun u => { u with smi := false })

/-- The command word of the opcode table with value `w` (log 23). -/
def tableWord (nbits w : Nat) : PortWord := BitVec.ofNat 128 (w % 2 ^ nbits)

end Sys2Proof.Machine
end

