-- ==== Sys2Proof/Machine/Step.lean ====
section
/-! DEFINITION. One step of the machine (R70): the next input of the script. With nothing to do, nothing happens
(log 4). -/

namespace Sys2Proof.Machine

/-- One step: take the next input and do what it says. -/
def step (s : State) : Host.Outcome State Fault Refusal :=
  match s.inputs with
  | [] => .next s
  | inp :: rest => runInput inp { s with inputs := rest }

/-- The state in which the very next step takes this command word from an agent that may issue it, with no step of
another agent inside the command. An outstanding command of that agent is taken away: an agent has one at a time (R311). -/
def State.withFetchWord (s : State) (nbits w : Nat) : State :=
  { s with
    inputs := .issue (issuerOf (tableWord nbits w)) (tableWord nbits w) :: s.inputs
    inFlight := s.inFlight.filter fun c => decide (c.agent ≠ issuerOf (tableWord nbits w)) }

end Sys2Proof.Machine
end

