-- ==== Sys2Proof/Safety.lean ====
section
/-! DEFINITION. What the block promises of every reachable state, in the terms statements use: the invariants of
10_state.md, R36, R122, R212 and R311. Each is a plain predicate; Certificates/Slice0/Obligations.lean states that every
step keeps it. -/

namespace Sys2Proof.Machine

/-- The base address is 4096-aligned and the maximum mode is one of R5's three (R5, R6). -/
abbrev ConfigBaseOk (c : Config) : Prop := c.apicBaseAddr.extractLsb' 0 12 = 0#12 ∧ c.maxMode ≠ .invalid

/-- The parameter VALID sets no bit outside the masks of R232, for the registers that have reserved bits, and the base
address lies in the bits 35:12 that BASE has for it (R35). -/
abbrev ConfigMasksOk (c : Config) : Prop :=
  c.valid.ldr &&& ~~~0xFF000000#32 = 0 ∧ c.valid.svr &&& ~~~0x1FF#32 = 0 ∧ c.valid.icrLo &&& ~~~0xCCFFF#32 = 0 ∧
  c.valid.icrHi &&& ~~~0xFF000000#32 = 0 ∧ c.valid.icr64 &&& ~~~0xFFFFFFFF000CCFFF#64 = 0 ∧
  c.valid.timerDcr &&& ~~~0xB#32 = 0 ∧ c.valid.lvtTimer &&& ~~~0x700FF#32 = 0 ∧
  c.valid.lvtThermal &&& ~~~0x107FF#32 = 0 ∧ c.valid.lvtPerf &&& ~~~0x107FF#32 = 0 ∧
  c.valid.lvtLint0 &&& ~~~0x1A7FF#32 = 0 ∧ c.valid.lvtLint1 &&& ~~~0x1A7FF#32 = 0 ∧
  c.valid.lvtError &&& ~~~0x100FF#32 = 0 ∧ c.apicBaseAddr &&& ~~~0xFFFFFF000#64 = 0

/-- `1 <= NCPU <= 255` (R5). -/
abbrev State.NcpuInv (s : State) : Prop := 1 ≤ s.ncpu ∧ s.ncpu ≤ 255

/-- PPR is what `UPDATE_PPR` computes from TPR and ISR, in every unit (R122). -/
abbrev State.PprInv (s : State) : Prop := ∀ u ∈ s.units, u.ppr = pprValue u.tpr u.isr

/-- The mode is never Invalid and never above `MAX_MODE`, and the base address is the platform's (R35, R36, R250). -/
abbrev ApicUnit.ModeOk (c : Config) (u : ApicUnit) : Prop :=
  u.mode ≠ .invalid ∧ modeRank u.mode ≤ modeRank c.maxMode ∧
    u.base.extractLsb' 12 24 = c.apicBaseAddr.extractLsb' 12 24

/-- `ModeOk` in every unit of a machine whose configuration is a legal one. -/
abbrev State.ModeInv (s : State) : Prop := ConfigBaseOk s.cfg ∧ ∀ u ∈ s.units, u.ModeOk s.cfg

/-- VERSION is the platform's, and ID and LDR are the derived ones of unit i: ID in xAPIC mode, both in x2APIC mode (R13,
R14, R19). -/
abbrev ApicUnit.IdentityOk (c : Config) (i : Nat) (u : ApicUnit) : Prop :=
  u.version = c.hwVersion ∧ (u.mode = .xapic → u.id = xapicId i) ∧
    (u.mode = .x2apic → u.id = x2apicId i ∧ u.ldr = x2apicLdr i)

/-- `IdentityOk` in every unit of a machine whose configuration is a legal one. -/
abbrev State.IdentityInv (s : State) : Prop :=
  ConfigBaseOk s.cfg ∧ ∀ (i : Nat) (h : i < s.units.length), (s.units[i]'h).IdentityOk s.cfg i

/-- An armed timer has a count, and its deadline is the count's, counted from an instant not in the future (R34, R172,
R177 case 7). -/
abbrev ApicUnit.TimerOk (now : Word64) (u : ApicUnit) : Prop :=
  u.timArmed = true →
    u.timerIcr ≠ 0 ∧ u.timArmAt.toNat ≤ now.toNat ∧
      u.timDeadline.toNat = u.timArmAt.toNat + u.timerIcr.toNat * 2 ^ u.timShift.toNat

/-- `TimerOk` in every unit, under the premise on `VT` (R170). -/
abbrev State.TimerInv (s : State) : Prop := s.vt.toNat ≤ vtBound ∧ ∀ u ∈ s.units, u.TimerOk s.vt

/-- The block's one addressed store, the tags, is in canonical form in every unit (log 18). -/
def Memory.wf (s : State) : Bool := s.units.all fun u => TagStore.wf u.tag

/-- Reserved register bits hold what the spec says they hold: BASE has BSP, EXTD, EN and bits 35:12 only (R35), TPR, PPR
above bit 7 and APR are 0 (R15 to R17), LDR and ICR_HI below bit 24 are 0 in xAPIC mode (R19, R241), DFR below bit 28 is all
ones (R20), SVR above bit 8 is 0 (R21), ESR has its three flags only (R25), ICR_LO is 0 outside its fields and in delivery
status (R92), every LVT entry is 0 outside the fields R93 lists for it and in delivery status, with remote-IRR set in
LVT_LINT0 only (R212), TIMER_DCR has bits 3, 1, 0 only (R30). -/
abbrev ApicUnit.ReservedOk (u : ApicUnit) : Prop :=
  u.base &&& ~~~0xFFFFFFD00#64 = 0 ∧ u.tpr.extractLsb' 8 24 = 0#24 ∧ u.ppr.extractLsb' 8 24 = 0#24 ∧ u.apr = 0 ∧
  (u.mode = .xapic → u.ldr.extractLsb' 0 24 = 0#24 ∧ u.icrHi.extractLsb' 0 24 = 0#24) ∧
  u.dfr.extractLsb' 0 28 = BitVec.allOnes 28 ∧ u.svr &&& ~~~0x1FF#32 = 0 ∧ u.esr &&& ~~~0xE0#32 = 0 ∧
  u.icrLo &&& ~~~0xCCFFF#32 = 0 ∧ u.timerDcr &&& ~~~0xB#32 = 0 ∧ u.lvtTimer &&& ~~~0x700FF#32 = 0 ∧
  u.lvtThermal &&& ~~~0x107FF#32 = 0 ∧ u.lvtPerf &&& ~~~0x107FF#32 = 0 ∧ u.lvtLint0 &&& ~~~0x1E7FF#32 = 0 ∧
  u.lvtLint1 &&& ~~~0x1A7FF#32 = 0 ∧ u.lvtError &&& ~~~0x100FF#32 = 0

/-- `ReservedOk` in every unit of a machine whose masks are legal ones. -/
abbrev State.ReservedInv (s : State) : Prop := ConfigMasksOk s.cfg ∧ ∀ u ∈ s.units, u.ReservedOk

/-- One outstanding command an agent, none of them finished (R311). -/
abbrev State.FlightInv (s : State) : Prop :=
  (s.inFlight.map InFlight.agent).Nodup ∧ ∀ c ∈ s.inFlight, c.todo ≠ []

/-- What a `POST` of `v` leaves in its target, as R152 says it: a vector of 15 or less is recorded in ESR[6], a vector
already pending changes nothing, any other is staged in the bitmap of its trigger mode, its tag ORed in, the flag set. -/
def ApicUnit.posted (u : ApicUnit) (v : Vec) (trig : Trigger) (tag : Word32) : ApicUnit :=
  if v.toNat ≤ 15 then { u with esr := u.esr ||| 0x40#32 }
  else if hasVec u.irr v then u
  else
    match trig with
    | .edge =>
      { u with pibE := ⟨setVec u.pibE.bits v, true⟩, tag := u.tag.write v.toNat (u.tag.read v.toNat ||| tag) }
    | .level =>
      { u with pibL := ⟨setVec u.pibL.bits v, true⟩, tag := u.tag.write v.toNat (u.tag.read v.toNat ||| tag) }

/-- Whether a `POST` of `v` wakes its target: it is staged, and the flag of its bitmap was clear (R152, R154). -/
def ApicUnit.postWakes (u : ApicUnit) (v : Vec) (trig : Trigger) : Bool :=
  decide (15 < v.toNat) && !hasVec u.irr v &&
    match trig with
    | .edge => !u.pibE.notify
    | .level => !u.pibL.notify

/-- What a command may do to a unit it does not address (R276): a post stages vectors, ORs tags, sets flags and records an
illegal vector in ESR[6] (R152), and a send raises the signal flags (R200). Nothing is cleared and nothing else changes. -/
abbrev ApicUnit.OnlyReceives (u u' : ApicUnit) : Prop :=
  u' = { u with
    esr := u'.esr, pibE := u'.pibE, pibL := u'.pibL, tag := u'.tag, nmi := u'.nmi, smi := u'.smi, extint := u'.extint } ∧
  (u'.esr = u.esr ∨ u'.esr = u.esr ||| 0x40#32) ∧
  u.pibE.bits &&& ~~~u'.pibE.bits = 0 ∧ (u.pibE.notify = true → u'.pibE.notify = true) ∧
  u.pibL.bits &&& ~~~u'.pibL.bits = 0 ∧ (u.pibL.notify = true → u'.pibL.notify = true) ∧
  (∀ v : Nat, u.tag.read v &&& ~~~(u'.tag.read v) = 0) ∧
  (u.nmi = true → u'.nmi = true) ∧ (u.smi = true → u'.smi = true) ∧ (u.extint = true → u'.extint = true)

/-- A vector that has been posted and not yet folded (R32, R267). -/
def ApicUnit.staged (u : ApicUnit) (v : Vec) : Bool := hasVec u.pibE.bits v || hasVec u.pibL.bits v

/-- The command an input hands to the machine, if it hands one. -/
def Input.command (inp : Input) : Option Instr :=
  match inp with
  | .issue _ w => (decode w).toOption
  | .start _ w => (decode w).toOption
  | .advance _ => none
  | .time _ => none
  | .takeNmi _ => none
  | .takeSmi _ => none

/-- Whether a command is one that may reset the registers of unit i: `RESET`, `INIT`, or `SET_BASE` (R290). -/
def resetsUnit (i : Nat) (c : Instr) : Prop := c = .reset i ∨ c = .init i ∨ ∃ x, c = .setBase i x

/-- The 23 opcodes (R82). -/
def opcodes : List (BitVec 8) :=
  [0x01, 0x02, 0x10, 0x11, 0x12, 0x13, 0x14, 0x15, 0x20, 0x21, 0x22, 0x23, 0x24, 0x25, 0x30, 0x31, 0x40, 0x41, 0x42,
    0x43, 0x52, 0x53, 0x54]

/-- The bits of a command word that a command with opcode `op` uses: the opcode and the column "fields used" of R82. -/
def usedBits (op : BitVec 8) : PortWord :=
  match op.toNat with
  | 0x10 => 0xFFFF0000FFFFFFFF0000000000000000
  | 0x11 => 0xFFFF0002FFFFFFFF00000000FFFFFFFF
  | 0x12 => 0xFFFF0000FFFFFFFF0000000000000000
  | 0x13 => 0xFFFF0002FFFFFFFFFFFFFFFFFFFFFFFF
  | 0x15 => 0xFFFF000000000000FFFFFFFFFFFFFFFF
  | 0x23 => 0xFFFF000000000000FFFFFFFFFFFFFFFF
  | 0x24 => 0xFFFFFF00000000000000000000000000
  | 0x25 => 0xFFFFFF00000000000000000000000000
  | 0x30 => 0xFFFFFF08FFFFFFFF0000000000000000
  | 0x40 => 0xFFFF00000000000000000000FFFFFFFF
  | 0x52 => 0xFFFF0002000000000000000000000000
  | 0x53 => 0xFF00FFFEFFFFFFFF00000000FFFFFFFF
  | 0x54 => 0xFFFF0006000000000000000000000001
  | _ => 0xFFFF0000000000000000000000000000

/-- The parameters have their default tables (R6, R53, R232). -/
abbrev StandardTables (c : Config) : Prop := c.regMap = standardRegMap ∧ c.valid = standardValid ∧ c.msrBase = 0x800

/-- The MMIO port reaches unit i, whose state is `u` (R51). -/
abbrev MmioReaches (s : State) (i : Nat) (u : ApicUnit) : Prop :=
  s.units[i]? = some u ∧ u.mode = .xapic ∧ StandardTables s.cfg

/-- The MSR port reaches unit i, whose state is `u` (R52, R226, R227). -/
abbrev MsrReaches (s : State) (i : Nat) (u : ApicUnit) : Prop :=
  s.units[i]? = some u ∧ u.mode = .x2apic ∧ s.cfg.maxMode = .x2apic ∧ StandardTables s.cfg

/-- The readable registers of the page, EOI apart: offset and value, `ccr` being the current count (R53, R54, R55). -/
def pageRows (u : ApicUnit) (ccr : Word32) : List (Nat × Word32) :=
  [(0x020, u.id), (0x030, u.version), (0x080, u.tpr), (0x090, u.apr), (0x0A0, u.ppr), (0x0D0, u.ldr), (0x0E0, u.dfr),
    (0x0F0, u.svr), (0x280, u.esr), (0x300, u.icrLo), (0x310, u.icrHi), (0x320, u.lvtTimer), (0x330, u.lvtThermal),
    (0x340, u.lvtPerf), (0x350, u.lvtLint0), (0x360, u.lvtLint1), (0x370, u.lvtError), (0x380, u.timerIcr), (0x390, ccr),
    (0x3E0, u.timerDcr)] ++
  (List.range 8).map (fun k => (0x100 + 16 * k, u.isr.extractLsb' (32 * k) 32)) ++
  (List.range 8).map (fun k => (0x180 + 16 * k, u.tmr.extractLsb' (32 * k) 32)) ++
  (List.range 8).map (fun k => (0x200 + 16 * k, u.irr.extractLsb' (32 * k) 32))

/-- The undefined offsets of the MMIO range (R53). -/
def undefinedOffsets : List Nat :=
  [0x000, 0x010, 0x040, 0x050, 0x060, 0x070, 0x0C0, 0x290, 0x2A0, 0x2B0, 0x2C0, 0x2D0, 0x2E0, 0x2F0, 0x3A0, 0x3B0, 0x3C0,
    0x3D0, 0x3F0]

/-- The offsets of registers that are read-only through the MSR port, `LDR` and the 24 fragments among them (R53). -/
def msrReadOnlyOffsets : List Nat :=
  [0x020, 0x030, 0x0A0, 0x0D0, 0x390] ++ (List.range 24).map (fun k => 0x100 + 16 * k)

/-- The registers the MSR port can write, with the bits a write may set (R232). -/
def msrWriteMasks (tscDeadline : Bool) : List (Nat × Word64) :=
  [(0x080, 0xFF), (0x0B0, 0), (0x0F0, 0x1FF), (0x280, 0), (0x300, 0xFFFFFFFF000CCFFF),
    (0x320, if tscDeadline then 0x700FF else 0x300FF), (0x330, 0x107FF), (0x340, 0x107FF), (0x350, 0x1A7FF),
    (0x360, 0x1A7FF), (0x370, 0x100FF), (0x380, 0xFFFFFFFF), (0x3E0, 0xB)]

/-- The six LVT registers: offset, and the bits a write may set (R53, R232). -/
def lvtRows (tscDeadline : Bool) : List (Word32 × Lvt × Word32) :=
  [(0x320, .timer, if tscDeadline then 0x700FF else 0x300FF), (0x330, .thermal, 0x107FF), (0x340, .perf, 0x107FF),
    (0x350, .lint0, 0x1A7FF), (0x360, .lint1, 0x1A7FF), (0x370, .error, 0x100FF)]

/-- An MSR index that maps to no register available in x2APIC mode (R52, R53, R226): out of range, at an undefined offset,
or APR, DFR, ICR_HI. -/
abbrev MsrUnknown (idx : Word32) : Prop :=
  idx.toNat < 0x800 ∨ 0x83F < idx.toNat ∨ (idx.toNat - 0x800) * 16 ∈ undefinedOffsets ++ [0x090, 0x0E0, 0x310]

/-- The units after a Fixed or LowestPriority send to the units of `targets`: the hardware-enabled ones are posted to, each
for itself (R200). -/
def postedUnits (us : List ApicUnit) (targets : List Nat) (v : Vec) (trig : Trigger) (tag : Word32) : List ApicUnit :=
  us.mapIdx fun t u => if t ∈ targets ∧ u.isEnabled = true then u.posted v trig tag else u

/-- The wakes of a Fixed or LowestPriority send, in the order of the targets (R152, R200, R201). -/
def postedWakes (us : List ApicUnit) (targets : List Nat) (v : Vec) (trig : Trigger) : List Event :=
  (targets.filter fun t => us[t]?.any fun u => u.isEnabled && u.postWakes v trig).map .wake

/-- The units after an SMI, NMI or ExtINT send: the flag of every target, whatever its mode (R200). -/
def signalledUnits (us : List ApicUnit) (targets : List Nat) (sig : Signal) : List ApicUnit :=
  us.mapIdx fun t u =>
    if t ∈ targets then
      match sig with
      | .nmi => { u with nmi := true }
      | .smi => { u with smi := true }
      | .extint => { u with extint := true }
    else u

/-- The target set of a send from the ICR of unit i, whose state is `u` (R205): by shorthand, else by `COMPUTE_DEST`. -/
def IcrSendsTo (s : State) (i : Nat) (u : ApicUnit) (targets : List Nat) : Prop :=
  (u.icrLo.extractLsb' 18 2 = 1#2 ∧ targets = [i]) ∨
  (u.icrLo.extractLsb' 18 2 = 2#2 ∧ targets = List.range s.units.length) ∨
  (u.icrLo.extractLsb' 18 2 = 3#2 ∧ targets = (List.range s.units.length).filter (· ≠ i)) ∨
  (u.icrLo.extractLsb' 18 2 = 0#2 ∧ u.mode = .x2apic ∧
    s.computeDest u.icrHi (DestMode.ofBool (u.icrLo.getLsbD 11)) (DeliveryMode.ofBits (u.icrLo.extractLsb' 8 3)) true =
      some targets) ∨
  (u.icrLo.extractLsb' 18 2 = 0#2 ∧ u.mode ≠ .x2apic ∧
    s.computeDest ((u.icrHi.extractLsb' 24 8).setWidth 32) (DestMode.ofBool (u.icrLo.getLsbD 11))
      (DeliveryMode.ofBits (u.icrLo.extractLsb' 8 3)) false = some targets)

end Sys2Proof.Machine
end

