-- ==== Sys2Proof/Certificates/Slice0/Obligations.lean ====
section
/-! DEFINITION. The statements for the provers. Each says what it formalises; the tables and the functions it uses that
are not the machine's own are in Safety.lean. Every statement is about every state, so about every configuration. -/

open Sys2Proof Sys2Proof.Machine

/-! ## The command word -/

/-- R81, R82: words written out from the table decode to the commands they stand for. -/
def Obligations.SampleWordsDecode : Prop :=
  decode 0x01020000000000000000000000000000#128 = .ok (.reset 2) ∧
  decode 0x11000002000000800000000000000040#128 = .ok (.writeReg 0 0x080 0x40 true) ∧
  decode 0x150500000000000000000000FEE00C00#128 = .ok (.setBase 5 0xFEE00C00) ∧
  decode 0x22030000000000000000000000000000#128 = .ok (.getNext 3) ∧
  decode 0x30014108000000010000000000000000#128 = .ok (.post 1 0x41 .level 0x1) ∧
  decode 0x40000000000000000000000000000032#128 = .ok (.setInitialCount 0 50) ∧
  decode 0x5300613E000000080000000000000005#128 =
    .ok (.busDeliver 0x61 .lowestPriority .logical .level true 0x8 0x5 true) ∧
  decode 0x54020004000000000000000000000001#128 = .ok (.localInterrupt 2 .lint1 true false)

/-- R81, R82: decoding the word of a well-formed command gives the command, with every operand. -/
def Obligations.DecodeOfEncode : Prop := ∀ i : Instr, WellFormed i = true → decode (encode i) = .ok i

/-- R83: every word is a command or an illegal opcode, and bits a command does not use change nothing. -/
def Obligations.DecoderTotalAndBlind : Prop :=
  (∀ w : PortWord, w.extractLsb' 120 8 ∈ opcodes → ∃ i, decode w = .ok i ∧ WellFormed i = true) ∧
  (∀ w : PortWord, w.extractLsb' 120 8 ∉ opcodes → decode w = .error (.illegalOpcode (w.extractLsb' 120 8))) ∧
  ∀ w w' : PortWord, w &&& usedBits (w.extractLsb' 120 8) = w' &&& usedBits (w.extractLsb' 120 8) → decode w = decode w'

/-- R105: a word whose opcode is none of the 23 answers `ILLEGAL_OPCODE` and changes no state, however it is issued. -/
def Obligations.IllegalOpcodeAnswered : Prop :=
  ∀ (s : State) (a : Agent) (w : PortWord) (rest : List Input),
    s.inputs = .issue a w :: rest ∨ s.inputs = .start a w :: rest → (∀ c ∈ s.inFlight, c.agent ≠ a) →
    w.extractLsb' 120 8 ∉ opcodes →
    step s = .next { s with inputs := rest, rsp := responseWord .illegalOpcode 0 0 0, rspTo := a }

/-- A step runs the decoded command and gives the response to its issuer (R80); withFetchWord makes the next step run the
command of its word (log 4). -/
def Obligations.StepRunsDecodedCommand : Prop :=
  (∀ (s : State) (a : Agent) (w : PortWord) (rest : List Input) (i : Instr),
    s.inputs = .issue a w :: rest → (∀ c ∈ s.inFlight, c.agent ≠ a) → decode w = .ok i → mayIssue a i = true →
    ∃ t, exec i { s with inputs := rest } = .next t ∧ step s = .next { t with rspTo := a }) ∧
  ∀ (s : State) (i : Instr), WellFormed i = true →
    ∃ t, exec i { s with inFlight := s.inFlight.filter fun c => decide (c.agent ≠ usualIssuer i) } = .next t ∧
      step (s.withFetchWord 128 (encode i).toNat) = .next { t with rspTo := usualIssuer i }

/-- R305: who may issue a command; R38, R42: what the inputs of the Environment do. The machine refuses a wrong agent, a
second outstanding command and a step of a command that is not outstanding (the model's choice for what has no defined
behaviour, log 6, log 25) and a clock outside its premise (log 12); with no input nothing happens (log 4); for a unit that
does not exist takeNmi and takeSmi change nothing (log 16). -/
def Obligations.InputsTakenOrRefused : Prop :=
  (∀ (a : Agent) (c : Instr), mayIssue a c = true ↔
    (∃ i, c = .reset i ∧ a = .environment) ∨ (∃ i, c = .init i ∧ (a = .owner i ∨ a = .environment)) ∨
    (∃ t v trig tag, c = .post t v trig tag) ∨ (∃ i, c = .timerExpire i) ∨
    (∃ v dm d t pol g m p, c = .busDeliver v dm d t pol g m p) ∨ (∃ i pin l p, c = .localInterrupt i pin l p) ∨
    ((∀ i, c ≠ .reset i) ∧ ∃ i, c.unit? = some i ∧ a = .owner i)) ∧
  (∀ (s : State) (a : Agent) (w : PortWord) (rest : List Input) (c : Instr),
    s.inputs = .issue a w :: rest ∨ s.inputs = .start a w :: rest → (∀ d ∈ s.inFlight, d.agent ≠ a) →
    decode w = .ok c → mayIssue a c = false → step s = .refused .wrongAgent) ∧
  (∀ (s : State) (a : Agent) (w : PortWord) (rest : List Input),
    s.inputs = .issue a w :: rest ∨ s.inputs = .start a w :: rest → (∃ d ∈ s.inFlight, d.agent = a) →
    step s = .refused .reentrantCall) ∧
  (∀ (s : State) (a : Agent) (rest : List Input), s.inputs = .advance a :: rest → (∀ d ∈ s.inFlight, d.agent ≠ a) →
    step s = .refused .nothingInFlight) ∧
  (∀ (s : State) (vt : Word64) (rest : List Input), s.inputs = .time vt :: rest →
    (s.vt.toNat ≤ vt.toNat → vt.toNat ≤ 2 ^ 64 - 2 ^ 40 → step s = .next { s with inputs := rest, vt := vt }) ∧
    (vt.toNat < s.vt.toNat ∨ 2 ^ 64 - 2 ^ 40 < vt.toNat → step s = .refused .clockPremise)) ∧
  (∀ (s : State) (i : Nat) (u : ApicUnit) (rest : List Input), s.units[i]? = some u →
    (s.inputs = .takeNmi i :: rest →
      step s = .next { s with inputs := rest, units := s.units.set i { u with nmi := false } }) ∧
    (s.inputs = .takeSmi i :: rest →
      step s = .next { s with inputs := rest, units := s.units.set i { u with smi := false } })) ∧
  (∀ (s : State) (i : Nat) (rest : List Input), s.units.length ≤ i →
    s.inputs = .takeNmi i :: rest ∨ s.inputs = .takeSmi i :: rest → step s = .next { s with inputs := rest }) ∧
  ∀ s : State, s.inputs = [] → step s = .next s

/-- R85, R86, R260: every command answers one response word, laid out as R85 has it; only `GET_NEXT` gives `vector` and
`aux`, only the four reading commands give `data`. The last clause gives the codes of R86. -/
def Obligations.ResponseFields : Prop :=
  (∀ (i : Instr) (s : State), ∃ t, exec i s = .next t ∧
    (∃ st : Status, t.rsp.extractLsb' 120 8 = st.code) ∧ t.rsp.extractLsb' 96 16 = 0#16 ∧
    ((∀ k, i ≠ .getNext k) → t.rsp.extractLsb' 112 8 = 0#8 ∧ t.rsp.extractLsb' 64 32 = 0#32) ∧
    ((∀ k off, i ≠ .readReg k off) → (∀ k idx, i ≠ .readMsr k idx) → (∀ k, i ≠ .getBase k) →
      (∀ k, i ≠ .getCurrentCount k) → t.rsp.extractLsb' 0 64 = 0#64)) ∧
  (∀ (st : Status) (v : Vec) (aux : Word32) (data : Word64),
    (responseWord st v aux data).extractLsb' 120 8 = st.code ∧ (responseWord st v aux data).extractLsb' 112 8 = v ∧
    (responseWord st v aux data).extractLsb' 64 32 = aux ∧ (responseWord st v aux data).extractLsb' 0 64 = data) ∧
  [Status.ok, .notPending, .maskedByTpr, .notAccepted, .retryPrivileged, .notClaimed, .illegalCombination,
    .gpFault .invalidReadMode, .gpFault .invalidWriteMode, .gpFault .readRsvdOrUnknown, .gpFault .writeRsvdOrUnknown,
    .gpFault .readWriteOnly, .gpFault .writeReadOnly, .gpFault .writeRsvdBits, .gpFault .writeInvalid,
    .gpFault .readDisallowedConfig, .gpFault .writeDisallowedConfig, .gpFaultBase, .contractViolation,
    .illegalOpcode].map Status.code =
    [0x00#8, 0x01#8, 0x02#8, 0x03#8, 0x04#8, 0x05#8, 0x06#8, 0x11#8, 0x12#8, 0x13#8, 0x14#8, 0x15#8, 0x16#8, 0x17#8, 0x18#8,
      0x19#8, 0x1A#8, 0x1B#8, 0xFE#8, 0xFF#8]

/-! ## Reset -/

/-- R291, R292: `RESET` of a unit, every element of it. -/
def Obligations.ResetResult : Prop :=
  ∀ (s : State) (i : Nat), i < s.units.length →
    exec (.reset i) s = .next { s with
      units := s.units.set i
        { base := s.cfg.apicBaseAddr ||| (if s.cfg.maxMode ≠ .disabled then 0x800#64 else 0#64) |||
            (if i = 0 then 0x100#64 else 0#64)
          id := BitVec.ofNat 32 i <<< 24
          version := s.cfg.hwVersion
          tpr := 0, apr := 0, ppr := 0, ldr := 0, dfr := 0xFFFFFFFF, svr := 0x000000FF
          isr := 0, tmr := 0, irr := 0, esr := 0, icrLo := 0, icrHi := 0
          lvtTimer := 0x00010000, lvtThermal := 0x00010000, lvtPerf := 0x00010000
          lvtLint0 := 0x00010000, lvtLint1 := 0x00010000, lvtError := 0x00010000
          timerIcr := 0, timerDcr := 0, pibE := ⟨0, false⟩, pibL := ⟨0, false⟩, tag := []
          timArmed := false, timArmAt := 0, timDeadline := 0, timShift := 0
          intr := false, nmi := false, smi := false, extint := false }
      rsp := responseWord .ok 0 0 0 }

/-- R293, R292: `INIT` of a unit keeps BASE, ID, VERSION, NMI, SMI and EXTINT, derives LDR in x2APIC mode and resets the
rest. -/
def Obligations.InitResult : Prop :=
  ∀ (s : State) (i : Nat) (u : ApicUnit), s.units[i]? = some u →
    exec (.init i) s = .next { s with
      units := s.units.set i
        { u with
          tpr := 0, apr := 0, ppr := 0
          ldr := if u.base.getLsbD 11 = true ∧ u.base.getLsbD 10 = true then
              ((BitVec.ofNat 32 i >>> 4) <<< 16) ||| (1#32 <<< (i % 16)) else 0
          dfr := 0xFFFFFFFF, svr := 0x000000FF
          isr := 0, tmr := 0, irr := 0, esr := 0, icrLo := 0, icrHi := 0
          lvtTimer := 0x00010000, lvtThermal := 0x00010000, lvtPerf := 0x00010000
          lvtLint0 := 0x00010000, lvtLint1 := 0x00010000, lvtError := 0x00010000
          timerIcr := 0, timerDcr := 0, pibE := ⟨0, false⟩, pibL := ⟨0, false⟩, tag := []
          timArmed := false, timArmAt := 0, timDeadline := 0, timShift := 0
          intr := false }
      rsp := responseWord .ok 0 0 0 }

/-- R297: the machine starts as `RESET` leaves every unit, with `OUT` empty; and in that state the invariants of Safety.lean
hold. The model's choices: the configuration it starts with (log 1), VT = 0, which TimerInv uses (log 2), and the response
word and the outstanding commands, which make the first clause an equation (log 3). That PprInv and ModeInv are invariants
the spec marks as its own inference (R122, R291). -/
def Obligations.ResetState : Prop :=
  (∀ i, i < State.reset.units.length → exec (.reset i) State.reset = .next State.reset) ∧ State.reset.out = [] ∧
  State.reset.NcpuInv ∧ State.reset.PprInv ∧ State.reset.ModeInv ∧ State.reset.IdentityInv ∧ State.reset.TimerInv ∧
  Memory.wf State.reset = true ∧ State.reset.ReservedInv ∧ State.reset.FlightInv

/-! ## Register access -/

/-- R55, R56: a register written raw reads back, other offsets read as before (but for the computed TIMER_CCR at 0x390), and
nothing is stored at an undefined offset or in EOI and TIMER_CCR. R57: the four bytes at an offset are its value, least
significant byte first, and every other byte of the page reads 0. -/
def Obligations.PageReadsAfterWrite : Prop :=
  ∀ (c : Config) (now : Word64) (u : ApicUnit) (x : Word32), c.regMap = standardRegMap →
    (∀ r ∈ pageRows u 0, r.1 ≠ 0x390 → (u.pageWrite32 c r.1 x).pageRead32 c now r.1 = x) ∧
    (∀ off off', off' ≠ off → off' ≠ 0x390 → (u.pageWrite32 c off x).pageRead32 c now off' = u.pageRead32 c now off') ∧
    (∀ off, off = 0x0B0 ∨ off = 0x390 ∨ off ∈ undefinedOffsets → u.pageWrite32 c off x = u) ∧
    (∀ off, off = 0x0B0 ∨ off ∈ undefinedOffsets → u.pageRead32 c now off = 0) ∧
    (∀ off, off % 16 = 0 → off < 4096 →
      u.pageByte c now (off + 3) ++ u.pageByte c now (off + 2) ++ u.pageByte c now (off + 1) ++ u.pageByte c now off =
        u.pageRead32 c now off) ∧
    (∀ a, 4 ≤ a % 16 ∨ 4096 ≤ a → u.pageByte c now a = 0)

/-- R221, R53, R54: an MMIO read answers the register and changes nothing; EOI reads 0. -/
def Obligations.ReadRegAnswers : Prop :=
  ∀ (s : State) (i : Nat) (u : ApicUnit), MmioReaches s i u →
    (∀ r ∈ pageRows u (u.currentCount s.vt), exec (.readReg i (BitVec.ofNat 32 r.1)) s =
      .next { s with rsp := responseWord .ok 0 0 (r.2.setWidth 64) }) ∧
    exec (.readReg i 0x0B0) s = .next { s with rsp := responseWord .ok 0 0 0 }

/-- R224: at an undefined offset an MMIO write leaves no trace, an MMIO read answers 0 and sets ESR[7]; no MSR command sets
ESR[7] in any unit. -/
def Obligations.UndefinedOffset : Prop :=
  (∀ (s : State) (i : Nat) (u : ApicUnit) (off x : Word32) (p : Bool), MmioReaches s i u →
    off.toNat ∈ undefinedOffsets →
    exec (.readReg i off) s =
      .next { s with units := s.units.set i { u with esr := u.esr ||| 0x80#32 }, rsp := responseWord .ok 0 0 0 } ∧
    exec (.writeReg i off x p) s = .next { s with rsp := responseWord .ok 0 0 0 }) ∧
  ∀ (s t : State) (i : Nat) (c : Instr), (∃ idx, c = .readMsr i idx) ∨ (∃ idx x p, c = .writeMsr i idx x p) →
    exec c s = .next t → ∀ (j : Nat) (u u' : ApicUnit), s.units[j]? = some u → t.units[j]? = some u' →
    u'.esr.getLsbD 7 = true → u.esr.getLsbD 7 = true

/-- R51, R59, R81, R222, R247: what the port turns away, and an MMIO write of a read-only register, changes nothing. That it
answers `CONTRACT_VIOLATION` to a bad offset and to a unit that does not exist is the port's answer the model takes
(log 7). -/
def Obligations.PortTurnsAway : Prop :=
  (∀ (s : State) (i : Nat) (u : ApicUnit) (off x : Word32) (p : Bool), s.units[i]? = some u → off.toNat % 16 = 0 →
    off.toNat ≤ 0x3F0 → u.mode ≠ .xapic →
    exec (.readReg i off) s = .next { s with rsp := responseWord .notClaimed 0 0 0 } ∧
    exec (.writeReg i off x p) s = .next { s with rsp := responseWord .notClaimed 0 0 0 }) ∧
  (∀ (s : State) (i : Nat) (off x : Word32) (p : Bool), off.toNat % 16 ≠ 0 ∨ 0x3F0 < off.toNat →
    exec (.readReg i off) s = .next { s with rsp := responseWord .contractViolation 0 0 0 } ∧
    exec (.writeReg i off x p) s = .next { s with rsp := responseWord .contractViolation 0 0 0 }) ∧
  (∀ (s : State) (c : Instr) (i : Nat), c.unit? = some i → s.units.length ≤ i →
    exec c s = .next { s with rsp := responseWord .contractViolation 0 0 0 }) ∧
  ∀ (s : State) (i : Nat) (u : ApicUnit) (off x : Word32) (p : Bool), MmioReaches s i u →
    off.toNat ∈ [0x020, 0x030, 0x090, 0x0A0, 0x390] ∨ (0x100 ≤ off.toNat ∧ off.toNat ≤ 0x270 ∧ off.toNat % 16 = 0) →
    exec (.writeReg i off x p) s = .next { s with rsp := responseWord .ok 0 0 0 }

/-- R235: a TPR write stores the masked byte, recomputes PPR and rechecks INTR, on either port. -/
def Obligations.WriteTpr : Prop :=
  ∀ (s : State) (i : Nat) (u : ApicUnit) (x : Word32) (p : Bool),
    (MmioReaches s i u → exec (.writeReg i 0x080 x p) s = .next { s with
      units := s.units.set i { u with tpr := x &&& 0xFF#32, ppr := pprValue (x &&& 0xFF#32) u.isr, intr := u.intrValue }
      rsp := responseWord .ok 0 0 0 }) ∧
    (MsrReaches s i u → x &&& 0xFF#32 = x → exec (.writeMsr i 0x808 (x.setWidth 64) p) s = .next { s with
      units := s.units.set i { u with tpr := x, ppr := pprValue x u.isr, intr := u.intrValue }
      rsp := responseWord .ok 0 0 0 })

/-- R236, R245: a write of the EOI register is the command `EOI`, a write of TIMER_ICR the command `SET_INITIAL_COUNT`, on
either port. -/
def Obligations.WriteRunsCommand : Prop :=
  ∀ (s : State) (i : Nat) (u : ApicUnit) (x : Word32) (y : Word64) (p : Bool),
    (MmioReaches s i u → exec (.writeReg i 0x0B0 x p) s = exec (.eoi i y) s ∧
      exec (.writeReg i 0x380 x p) s = exec (.setInitialCount i x) s) ∧
    (MsrReaches s i u → exec (.writeMsr i 0x80B 0 p) s = exec (.eoi i y) s ∧
      exec (.writeMsr i 0x838 (x.setWidth 64) p) s = exec (.setInitialCount i x) s)

/-- R237: an SVR write that takes software-enable from 1 to 0 masks all six LVT entries; no SVR write does anything else. -/
def Obligations.WriteSvr : Prop :=
  ∀ (s : State) (i : Nat) (u : ApicUnit) (x : Word32) (p : Bool),
    let result (y : Word32) : Host.Outcome State Fault Refusal := .next { s with
      units := s.units.set i
        (if u.svr.getLsbD 8 = true ∧ y.getLsbD 8 = false then
          { u with
            svr := y
            lvtTimer := u.lvtTimer ||| 0x10000#32, lvtThermal := u.lvtThermal ||| 0x10000#32
            lvtPerf := u.lvtPerf ||| 0x10000#32, lvtLint0 := u.lvtLint0 ||| 0x10000#32
            lvtLint1 := u.lvtLint1 ||| 0x10000#32, lvtError := u.lvtError ||| 0x10000#32 }
        else { u with svr := y })
      rsp := responseWord .ok 0 0 0 }
    (MmioReaches s i u → exec (.writeReg i 0x0F0 x p) s = result (x &&& 0x1FF#32)) ∧
    (MsrReaches s i u → x &&& 0x1FF#32 = x → exec (.writeMsr i 0x80F (x.setWidth 64) p) s = result x)

/-- R238, R239, R240, R246 and the ICR_HI half of R241: the writes that only store, and the ESR write that clears. -/
def Obligations.WriteStores : Prop :=
  (∀ (s : State) (i : Nat) (u : ApicUnit) (x : Word32) (p : Bool), MmioReaches s i u →
    let result (u' : ApicUnit) : Host.Outcome State Fault Refusal :=
      .next { s with units := s.units.set i u', rsp := responseWord .ok 0 0 0 }
    exec (.writeReg i 0x0D0 x p) s = result { u with ldr := x &&& 0xFF000000#32 } ∧
    exec (.writeReg i 0x0E0 x p) s = result { u with dfr := (x &&& 0xF0000000#32) ||| 0x0FFFFFFF#32 } ∧
    exec (.writeReg i 0x280 x p) s = result { u with esr := 0 } ∧
    exec (.writeReg i 0x310 x p) s = result { u with icrHi := x &&& 0xFF000000#32 } ∧
    exec (.writeReg i 0x3E0 x p) s = result { u with timerDcr := x &&& 0xB#32 }) ∧
  ∀ (s : State) (i : Nat) (u : ApicUnit) (x : Word32) (p : Bool), MsrReaches s i u →
    exec (.writeMsr i 0x828 0 p) s =
      .next { s with units := s.units.set i { u with esr := 0 }, rsp := responseWord .ok 0 0 0 } ∧
    (x &&& 0xB#32 = x → exec (.writeMsr i 0x83E (x.setWidth 64) p) s =
      .next { s with units := s.units.set i { u with timerDcr := x }, rsp := responseWord .ok 0 0 0 })

/-- R243: an LVT write keeps bit 14, stores the value, and records an illegal vector in a Fixed entry in ESR[5], on either
port, for all six entries. -/
def Obligations.WriteLvt : Prop :=
  ∀ (s : State) (i : Nat) (u : ApicUnit) (x : Word32) (p : Bool), ∀ r ∈ lvtRows s.cfg.tscDeadlineAvail,
    let result (y : Word32) : Host.Outcome State Fault Refusal := .next { s with
      units := s.units.set i
        (let stored := u.setLvt r.2.1 ((u.lvt r.2.1 &&& 0x4000#32) ||| y)
        if (r.2.1 = .timer ∨ r.2.1 = .error ∨ y.extractLsb' 8 3 = 0#3) ∧ (y.extractLsb' 0 8).toNat ≤ 15 then
          { stored with esr := stored.esr ||| 0x20#32 }
        else stored)
      rsp := responseWord .ok 0 0 0 }
    (MmioReaches s i u → exec (.writeReg i r.1 x p) s = result (x &&& r.2.2)) ∧
    (MsrReaches s i u → x &&& r.2.2 = x → exec (.writeMsr i (0x800#32 + (r.1 >>> 4)) (x.setWidth 64) p) s = result x)

/-- R241, R242: an ICR_HI write only stores, an ICR_LO write stores and then sends; in x2APIC mode one write stores both halves and then sends, unless
the pair of delivery mode and shorthand is a forbidden one. -/
def Obligations.WriteIcrSends : Prop :=
  (∀ (s : State) (i : Nat) (u : ApicUnit) (x : Word32) (p : Bool), MmioReaches s i u →
    exec (.writeReg i 0x300 x p) s =
      exec (.sendIpiFromIcr i p) { s with units := s.units.set i { u with icrLo := x &&& 0xCCFFF#32 } } ∧
    exec (.writeReg i 0x310 x p) s = .next { s with
      units := s.units.set i { u with icrHi := x &&& 0xFF000000#32 }
      rsp := responseWord .ok 0 0 0 }) ∧
  ∀ (s : State) (i : Nat) (u : ApicUnit) (x : Word64) (p : Bool), MsrReaches s i u →
    x &&& 0xFFFFFFFF000CCFFF#64 = x → (x.extractLsb' 8 3, x.extractLsb' 18 2) ∉ s.cfg.icrComboIllegal →
    exec (.writeMsr i 0x830 x p) s =
      exec (.sendIpiFromIcr i p)
        { s with units := s.units.set i { u with icrHi := x.extractLsb' 32 32, icrLo := x.extractLsb' 0 32 } }

/-- R226: an MSR read answers the register of its index and changes nothing; the ICR is one 64-bit register. -/
def Obligations.ReadMsrAnswers : Prop :=
  ∀ (s : State) (i : Nat) (u : ApicUnit), MsrReaches s i u →
    (∀ r ∈ pageRows u (u.currentCount s.vt), r.1 ∉ [0x090, 0x0E0, 0x300, 0x310] →
      exec (.readMsr i (BitVec.ofNat 32 (0x800 + r.1 / 16))) s =
        .next { s with rsp := responseWord .ok 0 0 (r.2.setWidth 64) }) ∧
    exec (.readMsr i 0x830) s = .next { s with rsp := responseWord .ok 0 0 (u.icrHi ++ u.icrLo) }

/-- R226, R261: the faults of an MSR read, in the order of the checks; nothing changes but the response. -/
def Obligations.ReadMsrFaults : Prop :=
  ∀ (s : State) (i : Nat) (u : ApicUnit) (idx : Word32), s.units[i]? = some u → StandardTables s.cfg →
    let faults (k : GpKind) : Prop := exec (.readMsr i idx) s = .next { s with rsp := responseWord (.gpFault k) 0 0 0 }
    (s.cfg.maxMode ≠ .x2apic → faults .readDisallowedConfig) ∧
    (s.cfg.maxMode = .x2apic → u.mode ≠ .x2apic → faults .invalidReadMode) ∧
    (s.cfg.maxMode = .x2apic → u.mode = .x2apic → MsrUnknown idx → faults .readRsvdOrUnknown) ∧
    (s.cfg.maxMode = .x2apic → u.mode = .x2apic → idx = 0x80B → faults .readWriteOnly)

/-- R227, R261: the faults of an MSR write, in the order of the checks; nothing changes but the response. -/
def Obligations.WriteMsrFaults : Prop :=
  ∀ (s : State) (i : Nat) (u : ApicUnit) (idx : Word32) (x : Word64) (p : Bool), s.units[i]? = some u →
    StandardTables s.cfg →
    let faults (k : GpKind) : Prop :=
      exec (.writeMsr i idx x p) s = .next { s with rsp := responseWord (.gpFault k) 0 0 0 }
    (s.cfg.maxMode ≠ .x2apic → faults .writeDisallowedConfig) ∧
    (s.cfg.maxMode = .x2apic → u.mode ≠ .x2apic → faults .invalidWriteMode) ∧
    (s.cfg.maxMode = .x2apic → u.mode = .x2apic →
      (MsrUnknown idx → faults .writeRsvdOrUnknown) ∧
      (0x800 ≤ idx.toNat → (idx.toNat - 0x800) * 16 ∈ msrReadOnlyOffsets → faults .writeReadOnly) ∧
      (∀ r ∈ msrWriteMasks s.cfg.tscDeadlineAvail, idx.toNat = 0x800 + r.1 / 16 → x &&& ~~~r.2 ≠ 0 →
        faults .writeRsvdBits) ∧
      (idx = 0x830 → x &&& 0xFFFFFFFF000CCFFF#64 = x →
        (x.extractLsb' 8 3, x.extractLsb' 18 2) ∈ s.cfg.icrComboIllegal → faults .writeInvalid))

/-- R249, R36: `GET_BASE` answers BASE; the mode is the decode of BASE[11] and BASE[10]. -/
def Obligations.GetBaseAnswers : Prop :=
  (∀ (s : State) (i : Nat) (u : ApicUnit), s.units[i]? = some u →
    exec (.getBase i) s = .next { s with rsp := responseWord .ok 0 0 u.base }) ∧
  ∀ u : ApicUnit,
    (u.mode = .disabled ↔ u.base.getLsbD 11 = false ∧ u.base.getLsbD 10 = false) ∧
    (u.mode = .xapic ↔ u.base.getLsbD 11 = true ∧ u.base.getLsbD 10 = false) ∧
    (u.mode = .x2apic ↔ u.base.getLsbD 11 = true ∧ u.base.getLsbD 10 = true) ∧
    (u.mode = .invalid ↔ u.base.getLsbD 11 = false ∧ u.base.getLsbD 10 = true)

/-- R250, R251, R252: an accepted `SET_BASE` and its effect, by transition. -/
def Obligations.SetBaseAccepts : Prop :=
  ∀ (s : State) (i : Nat) (u : ApicUnit) (x : Word64), s.units[i]? = some u → x &&& ~~~0x0000000FFFFFFD00#64 = 0 →
    x.extractLsb' 12 24 = s.cfg.apicBaseAddr.extractLsb' 12 24 →
    let accepts (u' : ApicUnit) : Prop :=
      exec (.setBase i x) s = .next { s with units := s.units.set i u', rsp := responseWord .ok 0 0 0 }
    (u.mode = .disabled → modeOf x = .xapic → s.cfg.maxMode = .xapic ∨ s.cfg.maxMode = .x2apic → accepts
      { base := x
        id := BitVec.ofNat 32 i <<< 24
        version := s.cfg.hwVersion
        tpr := 0, apr := 0, ppr := 0, ldr := 0, dfr := 0xFFFFFFFF, svr := 0x000000FF
        isr := 0, tmr := 0, irr := 0, esr := 0, icrLo := 0, icrHi := 0
        lvtTimer := 0x00010000, lvtThermal := 0x00010000, lvtPerf := 0x00010000
        lvtLint0 := 0x00010000, lvtLint1 := 0x00010000, lvtError := 0x00010000
        timerIcr := 0, timerDcr := 0, pibE := ⟨0, false⟩, pibL := ⟨0, false⟩, tag := []
        timArmed := false, timArmAt := 0, timDeadline := 0, timShift := 0
        intr := false, nmi := u.nmi, smi := u.smi, extint := u.extint }) ∧
    (u.mode = .xapic → modeOf x = .x2apic → s.cfg.maxMode = .x2apic → accepts
      { u with
        id := BitVec.ofNat 32 i
        ldr := ((BitVec.ofNat 32 i >>> 4) <<< 16) ||| (1#32 <<< (i % 16))
        base := x }) ∧
    (u.mode = .xapic ∨ u.mode = .x2apic → modeOf x = .disabled → accepts { u with base := x }) ∧
    (u.mode = .disabled → modeOf x = .disabled → accepts { u with base := x }) ∧
    (u.mode = .xapic → modeOf x = .xapic → s.cfg.maxMode = .xapic ∨ s.cfg.maxMode = .x2apic →
      accepts { u with base := x }) ∧
    (u.mode = .x2apic → modeOf x = .x2apic → s.cfg.maxMode = .x2apic → accepts { u with base := x })

/-- R250, R251, R262: the base values `SET_BASE` rejects, with no change but the response. -/
def Obligations.SetBaseRejects : Prop :=
  ∀ (s : State) (i : Nat) (u : ApicUnit) (x : Word64), s.units[i]? = some u →
    (x &&& ~~~0x0000000FFFFFFD00#64 ≠ 0 ∨ x.extractLsb' 12 24 ≠ s.cfg.apicBaseAddr.extractLsb' 12 24 ∨
      modeOf x = .invalid ∨ (s.cfg.maxMode = .disabled ∧ modeOf x ≠ .disabled) ∨
      (s.cfg.maxMode = .xapic ∧ modeOf x = .x2apic) ∨ (u.mode = .disabled ∧ modeOf x = .x2apic) ∨
      (u.mode = .x2apic ∧ modeOf x = .xapic)) →
    exec (.setBase i x) s = .next { s with rsp := responseWord .gpFaultBase 0 0 0 }

/-! ## Priority -/

/-- R121, R120: `UPDATE_PPR`, by the highest in-service vector. -/
def Obligations.UpdatePprResult : Prop :=
  ∀ (s : State) (i : Nat) (u : ApicUnit), s.units[i]? = some u →
    let result (p : Word32) : Host.Outcome State Fault Refusal :=
      .next { s with units := s.units.set i { u with ppr := p }, rsp := responseWord .ok 0 0 0 }
    (u.isr = 0 → exec (.updatePpr i) s = result ((u.tpr.extractLsb' 0 8).setWidth 32)) ∧
    (∀ v : Vec, hasVec u.isr v = true → (∀ w : Vec, hasVec u.isr w = true → w.toNat ≤ v.toNat) →
      exec (.updatePpr i) s = result
        (if v.toNat / 16 ≤ (u.tpr.extractLsb' 4 4).toNat then (u.tpr.extractLsb' 0 8).setWidth 32
        else BitVec.ofNat 32 (v.toNat / 16 * 16)))

/-- R123: `SIGNAL_IF_PENDING` raises INTR exactly when the unit is software-enabled and some vector is pending whose class
is above the class of every vector in service; TPR plays no part (R124). -/
def Obligations.SignalIfPendingResult : Prop :=
  ∀ (s : State) (i : Nat) (u : ApicUnit), s.units[i]? = some u →
    ∃ b : Bool, exec (.signalIfPending i) s =
      .next { s with units := s.units.set i { u with intr := b }, rsp := responseWord .ok 0 0 0 } ∧ b = u.intrValue ∧
      (b = true ↔ u.svr.getLsbD 8 = true ∧ ∃ p : Vec, hasVec u.irr p = true ∧
        ∀ v : Vec, hasVec u.isr v = true → v.toNat / 16 < p.toNat / 16)

/-- R125 (e), R270: `GET_NEXT` delivers the highest pending vector when nothing masks it. That INTR is 0 after it is an
inference the spec marks as its own (R126 (6)). -/
def Obligations.GetNextDelivers : Prop :=
  ∀ (s : State) (i : Nat) (u : ApicUnit) (v : Vec), s.units[i]? = some u → u.base.getLsbD 11 = true →
    u.svr.getLsbD 8 = true → hasVec u.irr v = true → (∀ w : Vec, hasVec u.irr w = true → w.toNat ≤ v.toNat) →
    (u.tpr.extractLsb' 4 4).toNat < v.toNat / 16 →
    (u.ppr.extractLsb' 0 8 = 0#8 ∨ (u.ppr.extractLsb' 4 4).toNat < v.toNat / 16) →
    exec (.getNext i) s = .next { s with
      units := s.units.set i
        { u with
          irr := u.irr &&& ~~~(1#256 <<< v.toNat)
          isr := u.isr ||| (1#256 <<< v.toNat)
          ppr := pprValue u.tpr (u.isr ||| (1#256 <<< v.toNat))
          intr := false
          tag := u.tag.write v.toNat 0 }
      rsp := responseWord .ok v (u.tag.read v.toNat) 0 }

/-- R125 (a) to (d): when `GET_NEXT` delivers nothing, and what it answers then; no state changes. -/
def Obligations.GetNextWithholds : Prop :=
  ∀ (s : State) (i : Nat) (u : ApicUnit), s.units[i]? = some u →
    (u.base.getLsbD 11 = false ∨ u.svr.getLsbD 8 = false →
      exec (.getNext i) s = .next { s with rsp := responseWord .notPending 0 0 0 }) ∧
    (u.irr = 0 → exec (.getNext i) s = .next { s with rsp := responseWord .notPending 0 0 0 }) ∧
    (∀ v : Vec, u.base.getLsbD 11 = true → u.svr.getLsbD 8 = true → hasVec u.irr v = true →
      (∀ w : Vec, hasVec u.irr w = true → w.toNat ≤ v.toNat) →
      (v.toNat / 16 ≤ (u.tpr.extractLsb' 4 4).toNat →
        exec (.getNext i) s = .next { s with rsp := responseWord .maskedByTpr v 0 0 }) ∧
      ((u.tpr.extractLsb' 4 4).toNat < v.toNat / 16 → u.ppr.extractLsb' 0 8 ≠ 0#8 →
        v.toNat / 16 ≤ (u.ppr.extractLsb' 4 4).toNat →
        exec (.getNext i) s = .next { s with rsp := responseWord .notPending 0 0 0 }))

/-- R127: a delivered vector's class is above the TPR class and above the class of every vector in service, where PPR is what
R122 says; and it is the highest pending vector (R126 (4)). -/
def Obligations.GetNextRespectsPriority : Prop :=
  ∀ (s t : State) (i : Nat) (u : ApicUnit) (v : Vec) (g : Word32), s.units[i]? = some u →
    u.ppr = pprValue u.tpr u.isr → exec (.getNext i) s = .next t → t.rsp = responseWord .ok v g 0 →
    (u.tpr.extractLsb' 4 4).toNat < v.toNat / 16 ∧ (∀ w : Vec, hasVec u.isr w = true → w.toNat / 16 < v.toNat / 16) ∧
    hasVec u.irr v = true ∧ ∀ w : Vec, hasVec u.irr w = true → w.toNat ≤ v.toNat

/-- R128, R129, R271: `EOI` ends the highest in-service vector, and does nothing when there is none. -/
def Obligations.EoiResult : Prop :=
  ∀ (s : State) (i : Nat) (u : ApicUnit) (y : Word64), s.units[i]? = some u →
    (u.isr = 0 → exec (.eoi i y) s = .next { s with rsp := responseWord .ok 0 0 0 }) ∧
    (∀ v : Vec, hasVec u.isr v = true → (∀ w : Vec, hasVec u.isr w = true → w.toNat ≤ v.toNat) →
      let isr' := u.isr &&& ~~~(1#256 <<< v.toNat)
      exec (.eoi i y) s = .next { s with
        units := s.units.set i
          { u with
            isr := isr'
            tmr := u.tmr &&& ~~~(1#256 <<< v.toNat)
            lvtLint0 := if hasVec u.tmr v = true ∧ u.lvtLint0.extractLsb' 0 8 = v then u.lvtLint0 &&& ~~~0x4000#32
              else u.lvtLint0
            ppr := pprValue u.tpr isr'
            intr := { u with isr := isr' }.intrValue }
        out := s.out ++ (if hasVec u.tmr v = true then [.busEoi i v] else [])
        rsp := responseWord .ok 0 0 0 })

/-- R131, R132: the unconditional moves between IRR and ISR. -/
def Obligations.ServiceMoves : Prop :=
  ∀ (s : State) (i : Nat) (u : ApicUnit) (v : Vec), s.units[i]? = some u →
    exec (.queueToService i v) s = .next { s with
      units := s.units.set i
        { u with
          irr := u.irr &&& ~~~(1#256 <<< v.toNat)
          isr := u.isr ||| (1#256 <<< v.toNat)
          ppr := pprValue u.tpr (u.isr ||| (1#256 <<< v.toNat)) }
      rsp := responseWord .ok 0 0 0 } ∧
    exec (.dequeueFromService i v) s = .next { s with
      units := s.units.set i
        { u with
          irr := u.irr ||| (1#256 <<< v.toNat)
          isr := u.isr &&& ~~~(1#256 <<< v.toNat)
          ppr := pprValue u.tpr (u.isr &&& ~~~(1#256 <<< v.toNat)) }
      rsp := responseWord .ok 0 0 0 }

/-- What R133 states and marks as derived from R125, R131 and R132: the two moves undo each other where the vector is in
exactly one of IRR and ISR, and `DEQUEUE_FROM_SERVICE` undoes a delivery in IRR, ISR and PPR but not in TAG and INTR. -/
def Obligations.ServiceMovesInverse : Prop :=
  ∀ (s : State) (i : Nat) (u : ApicUnit) (v : Vec), s.units[i]? = some u → u.ppr = pprValue u.tpr u.isr →
    (hasVec u.irr v = true → hasVec u.isr v = false →
      ∃ t r, exec (.queueToService i v) s = .next t ∧ exec (.dequeueFromService i v) t = .next r ∧ r.units = s.units) ∧
    (hasVec u.irr v = false → hasVec u.isr v = true →
      ∃ t r, exec (.dequeueFromService i v) s = .next t ∧ exec (.queueToService i v) t = .next r ∧ r.units = s.units) ∧
    (hasVec u.irr v = false → hasVec u.isr v = false →
      ∃ t r u', exec (.queueToService i v) s = .next t ∧ exec (.dequeueFromService i v) t = .next r ∧
        r.units[i]? = some u' ∧ hasVec u'.irr v = true) ∧
    ∀ (t : State) (g : Word32), exec (.getNext i) s = .next t → t.rsp = responseWord .ok v g 0 →
      ∃ r u', exec (.dequeueFromService i v) t = .next r ∧ r.units[i]? = some u' ∧ u'.irr = u.irr ∧ u'.isr = u.isr ∧
        u'.ppr = u.ppr ∧ u'.tag = u.tag.write v.toNat 0 ∧ t.units[i]?.map ApicUnit.intr = some u'.intr

/-! ## Posting and folding -/

/-- R152: `POST` run whole: refused, already pending, or staged with its tag, its flag and, if the flag was clear, a wake.
R39: a post that is staged raises FOLD_REQ. -/
def Obligations.PostResult : Prop :=
  ∀ (s : State) (t : Nat) (u : ApicUnit) (v : Vec) (trig : Trigger) (tag : Word32), s.units[t]? = some u →
    exec (.post t v trig tag) s = .next { s with
      units := s.units.set t (u.posted v trig tag)
      out := s.out ++ (if u.postWakes v trig = true then [.wake t] else [])
      rsp := responseWord (if v.toNat ≤ 15 then .notAccepted else .ok) 0 0 0 } ∧
    (15 < v.toNat → hasVec u.irr v = false → (u.posted v trig tag).foldReq = true)

/-- R156, R157, R158: `FOLD` run whole drains both bitmaps into IRR and TMR, level after edge, and rechecks INTR when a bit was
drained. R39: FOLD_REQ says that one of the two flags is set, so it is 0 after a fold. -/
def Obligations.FoldResult : Prop :=
  (∀ u : ApicUnit, u.foldReq = true ↔ u.pibE.notify = true ∨ u.pibL.notify = true) ∧
  ∀ (s : State) (i : Nat) (u : ApicUnit), s.units[i]? = some u →
    let drained : ApicUnit :=
      { u with
        pibE := ⟨0, false⟩, pibL := ⟨0, false⟩
        irr := u.irr ||| u.pibE.bits ||| u.pibL.bits
        tmr := (u.tmr &&& ~~~u.pibE.bits) ||| u.pibL.bits }
    let folded : ApicUnit :=
      { drained with intr := if u.pibE.bits = 0 ∧ u.pibL.bits = 0 then u.intr else drained.intrValue }
    exec (.fold i) s = .next { s with units := s.units.set i folded, rsp := responseWord .ok 0 0 0 } ∧
    folded.foldReq = false

/-- What R71 states and marks as derived from R152 and R156, for commands run whole: a post that was accepted is in IRR after
the owner's next fold. -/
def Obligations.PostVisibleAfterFold : Prop :=
  ∀ (s t r : State) (i : Nat) (v : Vec) (trig : Trigger) (tag : Word32), exec (.post i v trig tag) s = .next t →
    t.rsp = responseWord .ok 0 0 0 → exec (.fold i) t = .next r →
    ∃ u, r.units[i]? = some u ∧ hasVec u.irr v = true

/-- R72: two posts commute: the units end the same, and the same wakes are emitted, in some order. The tags are in canonical
form, which every step keeps. -/
def Obligations.PostsCommute : Prop :=
  ∀ (s : State) (i j : Nat) (v w : Vec) (trig trig' : Trigger) (g g' : Word32), Memory.wf s = true →
    ∃ a b a' b', exec (.post i v trig g) s = .next a ∧ exec (.post j w trig' g') a = .next b ∧
      exec (.post j w trig' g') s = .next a' ∧ exec (.post i v trig g) a' = .next b' ∧ b.units = b'.units ∧
      b.out.Perm b'.out

/-! ## The timer -/

/-- R172, R171: `SET_INITIAL_COUNT`: 0 stops the timer, any other count arms it for `n << shift` ticks from
now. That it arms in TSC-deadline mode too, and in timer mode 3, is the model's choice (log 9, U6, U7). -/
def Obligations.SetInitialCountResult : Prop :=
  ∀ (s : State) (i : Nat) (u : ApicUnit) (n : Word32), s.units[i]? = some u →
    let shift : BitVec 3 := (u.timerDcr.extractLsb' 3 1 ++ u.timerDcr.extractLsb' 0 2) + 1#3
    exec (.setInitialCount i n) s = .next { s with
      units := s.units.set i
        (if n = 0 then { u with timerIcr := 0, timArmed := false }
        else
          { u with
            timerIcr := n, timShift := shift, timArmAt := s.vt
            timDeadline := s.vt + BitVec.ofNat 64 (n.toNat * 2 ^ shift.toNat), timArmed := true })
      rsp := responseWord .ok 0 0 0 }

/-- R174: `GET_CURRENT_COUNT` answers the count and changes nothing. That timer mode 3 counts as one-shot is the model's
choice (log 9, U6). -/
def Obligations.CurrentCountResult : Prop :=
  ∀ (s : State) (i : Nat) (u : ApicUnit), s.units[i]? = some u →
    exec (.getCurrentCount i) s = .next { s with
      rsp := responseWord .ok 0 0
        (if u.lvtTimer.extractLsb' 17 2 = 2#2 then 0
        else if u.timArmed = false then 0
        else if u.timDeadline.toNat ≤ s.vt.toNat then 0
        else (u.timerIcr - ((s.vt - u.timArmAt) >>> u.timShift.toNat).setWidth 32).setWidth 64) }

/-- R175 (6), and the range that R174 marks as derived from R172: before the deadline the count is at least 1 and at most N,
and it is N less the elapsed ticks divided by the divider, rounded down; at the deadline it is 0. That timer mode 3 counts as
one-shot is the model's choice (log 9, U6). -/
def Obligations.CountRoundTrip : Prop :=
  ∀ (s t : State) (i : Nat) (u : ApicUnit) (n : Word32) (later : Word64), s.units[i]? = some u →
    u.lvtTimer.extractLsb' 17 2 ≠ 2#2 → n ≠ 0 → s.vt.toNat ≤ vtBound → s.vt.toNat ≤ later.toNat →
    exec (.setInitialCount i n) s = .next t →
    ∃ c : Word32, exec (.getCurrentCount i) { t with vt := later } =
        .next { t with vt := later, rsp := responseWord .ok 0 0 (c.setWidth 64) } ∧
      (later.toNat < s.vt.toNat + n.toNat * 2 ^ (divShift u.timerDcr).toNat →
        1 ≤ c.toNat ∧ c.toNat ≤ n.toNat ∧
        c.toNat = n.toNat - (later.toNat - s.vt.toNat) / 2 ^ (divShift u.timerDcr).toNat) ∧
      (s.vt.toNat + n.toNat * 2 ^ (divShift u.timerDcr).toNat ≤ later.toNat → c = 0)

/-- R176: `TIMER_EXPIRE`: nothing when not due; when due, periodic mode re-arms from now and every other mode disarms, and the
vector is posted as edge unless the entry is masked. That timer mode 3 and TSC-deadline mode disarm and post like one-shot
is the model's choice (log 9, U6, U7). -/
def Obligations.TimerExpireResult : Prop :=
  ∀ (s : State) (i : Nat) (u : ApicUnit), s.units[i]? = some u →
    let expired : ApicUnit :=
      if u.lvtTimer.extractLsb' 17 2 = 1#2 then
        { u with
          timShift := divShift u.timerDcr, timArmAt := s.vt
          timDeadline := s.vt + (u.timerIcr.setWidth 64 <<< (divShift u.timerDcr).toNat), timArmed := true }
      else { u with timArmed := false }
    (u.timArmed = false ∨ s.vt.toNat < u.timDeadline.toNat →
      exec (.timerExpire i) s = .next { s with rsp := responseWord .ok 0 0 0 }) ∧
    (u.timArmed = true → u.timDeadline.toNat ≤ s.vt.toNat → u.lvtTimer.getLsbD 16 = true →
      exec (.timerExpire i) s = .next { s with units := s.units.set i expired, rsp := responseWord .ok 0 0 0 }) ∧
    (u.timArmed = true → u.timDeadline.toNat ≤ s.vt.toNat → u.lvtTimer.getLsbD 16 = false →
      exec (.timerExpire i) s = .next { s with
        units := s.units.set i (expired.posted (u.lvtTimer.extractLsb' 0 8) .edge s.cfg.tagTimer)
        out := s.out ++ (if u.postWakes (u.lvtTimer.extractLsb' 0 8) .edge = true then [.wake i] else [])
        rsp := responseWord .ok 0 0 0 })

/-- R178: `STOP_TIMER` disarms and changes nothing else; after it the count is 0 and `TIMER_EXPIRE` does nothing, at any time. -/
def Obligations.StopTimerResult : Prop :=
  ∀ (s : State) (i : Nat) (u : ApicUnit) (later : Word64), s.units[i]? = some u →
    let t : State := { s with units := s.units.set i { u with timArmed := false }, rsp := responseWord .ok 0 0 0 }
    exec (.stopTimer i) s = .next t ∧
    exec (.getCurrentCount i) { t with vt := later } = .next { t with vt := later } ∧
    exec (.timerExpire i) { t with vt := later } = .next { t with vt := later }

/-! ## Destinations and sending -/

/-- R191, R192, R193, R194, R196: the target set of `COMPUTE_DEST`, by membership, in ascending order; the one combination that
has none. The model's choices: LowestPriority with a physical destination has no set (log 10, U8), and a DFR model other than
0xF and 0x0 matches nothing but the broadcast (log 14, U16). -/
def Obligations.DestinationMembers : Prop :=
  ∀ (s : State) (mask : Word32) (dm : DeliveryMode) (wide : Bool),
    let m : Word32 := if wide = true then mask else mask &&& 0xFF#32
    let bcast : Word32 := if wide = true then 0xFFFFFFFF#32 else 0xFF#32
    s.computeDest mask .physical .lowestPriority wide = none ∧
    (dm ≠ .lowestPriority → ∃ targets, s.computeDest mask .physical dm wide = some targets ∧ targets.Pairwise (· < ·) ∧
      ∀ t, t ∈ targets ↔ t < s.units.length ∧ (m = bcast ∨ m.toNat = t)) ∧
    (dm ≠ .lowestPriority → ∃ targets, s.computeDest mask .logical dm wide = some targets ∧ targets.Pairwise (· < ·) ∧
      ∀ t, t ∈ targets ↔ ∃ u, s.units[t]? = some u ∧ m ≠ 0 ∧
        (m = bcast ∨
          (u.mode = .x2apic ∧ m.extractLsb' 16 16 = u.ldr.extractLsb' 16 16 ∧
            m.extractLsb' 0 16 &&& u.ldr.extractLsb' 0 16 ≠ 0) ∨
          (u.mode ≠ .x2apic ∧ u.dfr.extractLsb' 28 4 = 0xF#4 ∧ m.extractLsb' 0 8 &&& u.ldr.extractLsb' 24 8 ≠ 0) ∨
          (u.mode ≠ .x2apic ∧ u.dfr.extractLsb' 28 4 = 0x0#4 ∧ m.extractLsb' 4 4 = u.ldr.extractLsb' 28 4 ∧
            m.extractLsb' 0 4 &&& u.ldr.extractLsb' 24 4 ≠ 0)))

/-- R195: lowest-priority delivery goes to the one unit of the logical set whose TPR byte is lowest, ties to the highest
index; to nobody when the set is empty. -/
def Obligations.ArbitrationWinner : Prop :=
  ∀ (s : State) (mask : Word32) (wide : Bool) (all : List Nat), s.computeDest mask .logical .fixed wide = some all →
    (all = [] → s.computeDest mask .logical .lowestPriority wide = some []) ∧
    (all ≠ [] → ∃ w ∈ all, s.computeDest mask .logical .lowestPriority wide = some [w] ∧
      ∃ uw, s.units[w]? = some uw ∧ ∀ t ∈ all, ∀ ut, s.units[t]? = some ut →
        (uw.tpr.extractLsb' 0 8).toNat ≤ (ut.tpr.extractLsb' 0 8).toNat ∧
        (ut.tpr.extractLsb' 0 8 = uw.tpr.extractLsb' 0 8 → t ≤ w))

/-- R200, R201, R202, R205: a Fixed or LowestPriority send from the ICR posts to every hardware-enabled target, wakes in
ascending order, and records an illegal vector of a Fixed send in the sender's ESR[5]. -/
def Obligations.IpiPosts : Prop :=
  ∀ (s : State) (i : Nat) (u : ApicUnit) (p : Bool) (targets : List Nat), s.units[i]? = some u →
    IcrSendsTo s i u targets → u.icrLo.extractLsb' 8 3 = 0#3 ∨ u.icrLo.extractLsb' 8 3 = 1#3 →
    let v : Vec := u.icrLo.extractLsb' 0 8
    let trig : Trigger := if u.icrLo.getLsbD 15 = true then .level else .edge
    exec (.sendIpiFromIcr i p) s = .next { s with
      units := (postedUnits s.units targets v trig s.cfg.tagIpi).modify i fun w =>
        if u.icrLo.extractLsb' 8 3 = 0#3 ∧ v.toNat ≤ 15 then { w with esr := w.esr ||| 0x20#32 } else w
      out := s.out ++ postedWakes s.units targets v trig
      rsp := responseWord .ok 0 0 0 }

/-- R200, R203, R205, R207: the other delivery modes of a send from the ICR: the signal flags, the events of INIT and SIPI with
a privileged context, the retry without one, the INIT de-assert, the reserved mode, and the combination that has no
targets. The model's choices: the reserved mode delivers nothing (log 8, U5), and LowestPriority with a physical destination
answers `ILLEGAL_COMBINATION` (log 10, U8). -/
def Obligations.IpiSignals : Prop :=
  ∀ (s : State) (i : Nat) (u : ApicUnit) (p : Bool), s.units[i]? = some u →
    let dm : BitVec 3 := u.icrLo.extractLsb' 8 3
    let deassert : Prop := dm = 5#3 ∧ u.icrLo.getLsbD 14 = false ∧ u.icrLo.getLsbD 15 = true
    let sends (units : List ApicUnit) (out : List Event) : Prop :=
      exec (.sendIpiFromIcr i p) s = .next { s with units := units, out := out, rsp := responseWord .ok 0 0 0 }
    (deassert → sends s.units s.out) ∧
    (dm = 1#3 → u.icrLo.extractLsb' 18 2 = 0#2 → u.icrLo.getLsbD 11 = false →
      exec (.sendIpiFromIcr i p) s = .next { s with rsp := responseWord .illegalCombination 0 0 0 }) ∧
    (dm = 5#3 ∨ dm = 6#3 → ¬ deassert → p = false →
      exec (.sendIpiFromIcr i p) s = .next { s with rsp := responseWord .retryPrivileged 0 0 0 }) ∧
    ∀ targets, IcrSendsTo s i u targets →
      (dm = 2#3 → sends (signalledUnits s.units targets .smi) s.out) ∧
      (dm = 3#3 → sends s.units s.out) ∧
      (dm = 4#3 → sends (signalledUnits s.units targets .nmi) s.out) ∧
      (dm = 7#3 → sends (signalledUnits s.units targets .extint) s.out) ∧
      (dm = 5#3 → ¬ deassert → p = true → sends s.units (s.out ++ targets.map .cpuInit)) ∧
      (dm = 6#3 → p = true → sends s.units (s.out ++ targets.map fun t => .cpuSipi t (u.icrLo.extractLsb' 0 8)))

/-- R209, R210, R204: `BUS_DELIVER` in every delivery mode: Delivered exactly when some target was posted to or signalled; no
sender, so no ESR[5]. The model's choices: the reserved mode is not accepted (log 8, U5), and LowestPriority with a physical
destination answers `ILLEGAL_COMBINATION` (log 10, U8). -/
def Obligations.BusDelivers : Prop :=
  ∀ (s : State) (v : Vec) (dm : DeliveryMode) (d : DestMode) (trig : Trigger) (pol : Bool) (g mask : Word32) (p : Bool),
    let c : Instr := .busDeliver v dm d trig pol g mask p
    let answers (units : List ApicUnit) (out : List Event) (st : Status) : Prop :=
      exec c s = .next { s with units := units, out := out, rsp := responseWord st 0 0 0 }
    (s.computeDest mask d dm s.cfg.busWide = none → answers s.units s.out .illegalCombination) ∧
    ∀ targets, s.computeDest mask d dm s.cfg.busWide = some targets →
      let signalled : Status := if targets = [] then .notAccepted else .ok
      (dm = .fixed ∨ dm = .lowestPriority →
        answers (postedUnits s.units targets v trig g) (s.out ++ postedWakes s.units targets v trig)
          (if 15 < v.toNat ∧ (targets.any fun t => s.units[t]?.any ApicUnit.isEnabled) = true then .ok
          else .notAccepted)) ∧
      (dm = .smi → answers (signalledUnits s.units targets .smi) s.out signalled) ∧
      (dm = .nmi → answers (signalledUnits s.units targets .nmi) s.out signalled) ∧
      (dm = .extInt → answers (signalledUnits s.units targets .extint) s.out signalled) ∧
      (dm = .reserved3 → answers s.units s.out .notAccepted) ∧
      (dm = .init ∨ dm = .sipi → p = false → answers s.units s.out .retryPrivileged) ∧
      (dm = .init → p = true → answers s.units (s.out ++ targets.map .cpuInit) signalled) ∧
      (dm = .sipi → p = true → answers s.units (s.out ++ targets.map fun t => .cpuSipi t v) signalled)

/-- R211, R212: a Fixed local interrupt: latched LINT0 is not delivered again; otherwise it is posted, and an accepted
level-triggered LINT0 is latched. LINT1 never latches. That LOCAL_INTERRUPT runs, by the body of R211, is the model's choice
(log 11, U9). -/
def Obligations.LocalPinFixed : Prop :=
  ∀ (s : State) (i : Nat) (u : ApicUnit) (pin : Pin) (p : Bool), s.units[i]? = some u → u.base.getLsbD 11 = true →
    let e : Word32 := match pin with
      | .lint0 => u.lvtLint0
      | .lint1 => u.lvtLint1
    let v : Vec := e.extractLsb' 0 8
    let trig : Trigger := if e.getLsbD 15 = true then .level else .edge
    e.getLsbD 16 = false → e.extractLsb' 8 3 = 0#3 →
    (pin = .lint0 ∧ e.getLsbD 15 = true ∧ u.lvtLint0.getLsbD 14 = true →
      exec (.localInterrupt i pin true p) s = .next { s with rsp := responseWord .ok 0 0 0 }) ∧
    (¬ (pin = .lint0 ∧ e.getLsbD 15 = true ∧ u.lvtLint0.getLsbD 14 = true) →
      let q : ApicUnit := u.posted v trig s.cfg.tagLint
      exec (.localInterrupt i pin true p) s = .next { s with
        units := s.units.set i
          (if v.toNat ≤ 15 then { q with esr := q.esr ||| 0x20#32 }
          else if pin = .lint0 ∧ e.getLsbD 15 = true then { q with lvtLint0 := q.lvtLint0 ||| 0x4000#32 }
          else q)
        out := s.out ++ (if u.postWakes v trig = true then [.wake i] else [])
        rsp := responseWord (if v.toNat ≤ 15 then .notAccepted else .ok) 0 0 0 })

/-- R211: every other local interrupt: not enabled or masked, ExtINT that follows the pin, a de-asserted pin, the signals, INIT
with and without a privileged context, and the modes that are not accepted. The model's choices: that LOCAL_INTERRUPT runs, by
the body of R211 (log 11, U9), and that mode 3 is not accepted (log 8, U5). -/
def Obligations.LocalPinOther : Prop :=
  ∀ (s : State) (i : Nat) (u : ApicUnit) (pin : Pin) (level p : Bool), s.units[i]? = some u →
    let e : Word32 := match pin with
      | .lint0 => u.lvtLint0
      | .lint1 => u.lvtLint1
    let dm : BitVec 3 := e.extractLsb' 8 3
    let answers (u' : ApicUnit) (out : List Event) (st : Status) : Prop :=
      exec (.localInterrupt i pin level p) s =
        .next { s with units := s.units.set i u', out := out, rsp := responseWord st 0 0 0 }
    (u.base.getLsbD 11 = false ∨ e.getLsbD 16 = true → answers u s.out .notAccepted) ∧
    (u.base.getLsbD 11 = true → e.getLsbD 16 = false →
      (dm = 7#3 → answers { u with extint := level } s.out .ok) ∧
      (dm ≠ 7#3 → level = false → answers u s.out .ok) ∧
      (dm = 2#3 → level = true → answers { u with smi := true } s.out .ok) ∧
      (dm = 4#3 → level = true → answers { u with nmi := true } s.out .ok) ∧
      (dm = 5#3 → level = true → p = true → answers u (s.out ++ [.cpuInit i]) .ok) ∧
      (dm = 5#3 → level = true → p = false → answers u s.out .retryPrivileged) ∧
      (dm = 1#3 ∨ dm = 6#3 ∨ dm = 3#3 → level = true → answers u s.out .notAccepted))

/-! ## What every step keeps -/

/-- The invariant that R122 states and marks as derived from R121: every step keeps PPR equal to what `UPDATE_PPR` computes, in
every unit. -/
def Obligations.StepKeepsPpr : Prop := ∀ s s' : State, s.PprInv → step s = .next s' → s'.PprInv

/-- R35, R36, R251: every step keeps the mode legal and the base address the platform's; R13, R14, R19: it keeps ID, VERSION and
LDR what the unit's index and mode say. -/
def Obligations.StepKeepsModeAndIdentity : Prop :=
  ∀ s s' : State, step s = .next s' → (s.ModeInv → s'.ModeInv) ∧ (s.IdentityInv → s'.IdentityInv)

/-- R34, R172, R177 (7): every step keeps an armed timer's count non-zero and its deadline the count's, from an instant not in
the future. -/
def Obligations.StepKeepsTimer : Prop := ∀ s s' : State, s.TimerInv → step s = .next s' → s'.TimerInv

/-- R15 to R17, R19 to R21, R25, R30, R35, R92, R93, R212, R241: every step keeps the reserved bits of every register as the
spec has them, where the parameters set none of them. ID, VERSION and the x2APIC LDR are StepKeepsModeAndIdentity's. -/
def Obligations.StepKeepsReserved : Prop := ∀ s s' : State, s.ReservedInv → step s = .next s' → s'.ReservedInv

/-- Every step keeps the tags' canonical form (log 18) and one outstanding command an agent (R311); it never changes the
parameters or the number of units (R5), never takes VT back (R42) and only ever appends to `OUT` (R40). -/
def Obligations.StepKeepsBookkeeping : Prop :=
  ∀ s s' : State, step s = .next s' →
    (Memory.wf s = true → Memory.wf s' = true) ∧ (s.FlightInv → s'.FlightInv) ∧ (s.NcpuInv → s'.NcpuInv) ∧
    s'.cfg = s.cfg ∧ s'.units.length = s.units.length ∧ s.vt.toNat ≤ s'.vt.toNat ∧ s.out <+: s'.out

/-- R151 (1), and what R159 (2) and R294 (1) state and mark as derived: a staged vector stays staged or reaches IRR with the
step that takes it out of the bitmap, whatever steps are interleaved; only a command that may reset the unit's registers loses
it. -/
def Obligations.NoStagedVectorLost : Prop :=
  ∀ (s s' : State) (i : Nat) (u u' : ApicUnit) (v : Vec), step s = .next s' → s.units[i]? = some u →
    s'.units[i]? = some u' → u.staged v = true →
    u'.staged v = true ∨ hasVec u'.irr v = true ∨ ∃ c, s.inputs.head?.bind Input.command = some c ∧ resetsUnit i c

/-- R35: BASE of a unit is written by `SET_BASE` and `RESET` of that unit alone. -/
def Obligations.OnlySetBaseAndResetWriteBase : Prop :=
  ∀ (s s' : State) (i : Nat) (u u' : ApicUnit), step s = .next s' → s.units[i]? = some u → s'.units[i]? = some u' →
    u'.base ≠ u.base →
    ∃ c, s.inputs.head?.bind Input.command = some c ∧ (c = .reset i ∨ ∃ x, c = .setBase i x)

/-- R151 (3), R24, R155 (7), R305: of a unit's registers the commands any agent may issue change only ESR, in which they set
bits, and the LINT0 latch, which `LOCAL_INTERRUPT` sets (R212); beside the registers, only the bitmaps, the tags, the signal
flags and, by `TIMER_EXPIRE` of that unit, the hidden timer state. -/
def Obligations.AnyAgentCommandsFrame : Prop :=
  ∀ (c : Instr) (s t : State), (∃ a, mayIssue a c = true ∧ ∀ k, a ≠ .owner k ∧ a ≠ .environment) → exec c s = .next t →
    ∀ (j : Nat) (u u' : ApicUnit), s.units[j]? = some u → t.units[j]? = some u' →
      u' = { u with
        esr := u'.esr, lvtLint0 := u'.lvtLint0, pibE := u'.pibE, pibL := u'.pibL, tag := u'.tag, timArmed := u'.timArmed
        timArmAt := u'.timArmAt, timDeadline := u'.timDeadline, timShift := u'.timShift, nmi := u'.nmi, smi := u'.smi
        extint := u'.extint } ∧
      u.esr &&& ~~~u'.esr = 0 ∧
      (u'.lvtLint0 = u.lvtLint0 ∨
        (u'.lvtLint0 = u.lvtLint0 ||| 0x4000#32 ∧ ∃ p, c = .localInterrupt j .lint0 true p)) ∧
      (c ≠ .timerExpire j → u'.timArmed = u.timArmed ∧ u'.timArmAt = u.timArmAt ∧ u'.timDeadline = u.timDeadline ∧
        u'.timShift = u.timShift)

/-- R276: a command reaches a unit other than the one it addresses only through a post, the ESR OR and the signal flags, all of
which only add to what is there; `BUS_DELIVER`, which addresses no unit, reaches every unit in this way alone. -/
def Obligations.UnitsIsolated : Prop :=
  ∀ (c : Instr) (s t : State) (j : Nat) (u u' : ApicUnit), exec c s = .next t → c.unit? ≠ some j →
    s.units[j]? = some u → t.units[j]? = some u' → u.OnlyReceives u'

/-- R70: a command taken step by step, with no step of another agent between, ends as the command run whole. -/
def Obligations.SplitRunEqualsWhole : Prop :=
  ∀ (s t : State) (a : Agent) (w : PortWord), step { s with inputs := [.issue a w] } = .next t →
    ∃ k, Host.Core.run Sys2Proof.core (k + 1) { s with inputs := .start a w :: List.replicate k (.advance a) } = .next t
end

