-- ==== Sys2Proof/Laws/State.lean ====
section
/-! SUPPORT. One lemma per field per update of the state, and per field for the unit updates that every command
shares: no later proof unfolds a record update. -/

namespace Sys2Proof.Machine

@[simp] theorem State.setUnit_cfg (s : State) (i : Nat) (u : ApicUnit) : (s.setUnit i u).cfg = s.cfg := rfl
@[simp] theorem State.setUnit_units (s : State) (i : Nat) (u : ApicUnit) : (s.setUnit i u).units = s.units.set i u := rfl
@[simp] theorem State.setUnit_out (s : State) (i : Nat) (u : ApicUnit) : (s.setUnit i u).out = s.out := rfl
@[simp] theorem State.setUnit_vt (s : State) (i : Nat) (u : ApicUnit) : (s.setUnit i u).vt = s.vt := rfl
@[simp] theorem State.setUnit_inFlight (s : State) (i : Nat) (u : ApicUnit) : (s.setUnit i u).inFlight = s.inFlight := rfl
@[simp] theorem State.setUnit_rsp (s : State) (i : Nat) (u : ApicUnit) : (s.setUnit i u).rsp = s.rsp := rfl
@[simp] theorem State.setUnit_rspTo (s : State) (i : Nat) (u : ApicUnit) : (s.setUnit i u).rspTo = s.rspTo := rfl
@[simp] theorem State.setUnit_inputs (s : State) (i : Nat) (u : ApicUnit) : (s.setUnit i u).inputs = s.inputs := rfl

@[simp] theorem State.emit_cfg (s : State) (es : List Event) : (s.emit es).cfg = s.cfg := rfl
@[simp] theorem State.emit_units (s : State) (es : List Event) : (s.emit es).units = s.units := rfl
@[simp] theorem State.emit_out (s : State) (es : List Event) : (s.emit es).out = s.out ++ es := rfl
@[simp] theorem State.emit_vt (s : State) (es : List Event) : (s.emit es).vt = s.vt := rfl
@[simp] theorem State.emit_inFlight (s : State) (es : List Event) : (s.emit es).inFlight = s.inFlight := rfl
@[simp] theorem State.emit_rsp (s : State) (es : List Event) : (s.emit es).rsp = s.rsp := rfl
@[simp] theorem State.emit_rspTo (s : State) (es : List Event) : (s.emit es).rspTo = s.rspTo := rfl
@[simp] theorem State.emit_inputs (s : State) (es : List Event) : (s.emit es).inputs = s.inputs := rfl

@[simp] theorem State.answer_cfg (s : State) (st : Status) (v : Vec) (a : Word32) (d : Word64) : (s.answer st v a d).cfg = s.cfg := rfl
@[simp] theorem State.answer_units (s : State) (st : Status) (v : Vec) (a : Word32) (d : Word64) : (s.answer st v a d).units = s.units := rfl
@[simp] theorem State.answer_out (s : State) (st : Status) (v : Vec) (a : Word32) (d : Word64) : (s.answer st v a d).out = s.out := rfl
@[simp] theorem State.answer_vt (s : State) (st : Status) (v : Vec) (a : Word32) (d : Word64) : (s.answer st v a d).vt = s.vt := rfl
@[simp] theorem State.answer_inFlight (s : State) (st : Status) (v : Vec) (a : Word32) (d : Word64) : (s.answer st v a d).inFlight = s.inFlight := rfl
@[simp] theorem State.answer_rsp (s : State) (st : Status) (v : Vec) (a : Word32) (d : Word64) : (s.answer st v a d).rsp = responseWord st v a d := rfl
@[simp] theorem State.answer_rspTo (s : State) (st : Status) (v : Vec) (a : Word32) (d : Word64) : (s.answer st v a d).rspTo = s.rspTo := rfl
@[simp] theorem State.answer_inputs (s : State) (st : Status) (v : Vec) (a : Word32) (d : Word64) : (s.answer st v a d).inputs = s.inputs := rfl

@[simp] theorem State.respond_cfg (s : State) (st : Status) : (s.respond st).cfg = s.cfg := rfl
@[simp] theorem State.respond_units (s : State) (st : Status) : (s.respond st).units = s.units := rfl
@[simp] theorem State.respond_out (s : State) (st : Status) : (s.respond st).out = s.out := rfl
@[simp] theorem State.respond_vt (s : State) (st : Status) : (s.respond st).vt = s.vt := rfl
@[simp] theorem State.respond_inFlight (s : State) (st : Status) : (s.respond st).inFlight = s.inFlight := rfl
@[simp] theorem State.respond_rsp (s : State) (st : Status) : (s.respond st).rsp = responseWord st 0 0 0 := rfl
@[simp] theorem State.respond_rspTo (s : State) (st : Status) : (s.respond st).rspTo = s.rspTo := rfl
@[simp] theorem State.respond_inputs (s : State) (st : Status) : (s.respond st).inputs = s.inputs := rfl

@[simp] theorem State.respondData_cfg (s : State) (d : Word64) : (s.respondData d).cfg = s.cfg := rfl
@[simp] theorem State.respondData_units (s : State) (d : Word64) : (s.respondData d).units = s.units := rfl
@[simp] theorem State.respondData_out (s : State) (d : Word64) : (s.respondData d).out = s.out := rfl
@[simp] theorem State.respondData_vt (s : State) (d : Word64) : (s.respondData d).vt = s.vt := rfl
@[simp] theorem State.respondData_inFlight (s : State) (d : Word64) : (s.respondData d).inFlight = s.inFlight := rfl
@[simp] theorem State.respondData_rsp (s : State) (d : Word64) : (s.respondData d).rsp = responseWord .ok 0 0 d := rfl
@[simp] theorem State.respondData_rspTo (s : State) (d : Word64) : (s.respondData d).rspTo = s.rspTo := rfl
@[simp] theorem State.respondData_inputs (s : State) (d : Word64) : (s.respondData d).inputs = s.inputs := rfl

@[simp] theorem State.answerTo_cfg (s : State) (a : Agent) : (s.answerTo a).cfg = s.cfg := rfl
@[simp] theorem State.answerTo_units (s : State) (a : Agent) : (s.answerTo a).units = s.units := rfl
@[simp] theorem State.answerTo_out (s : State) (a : Agent) : (s.answerTo a).out = s.out := rfl
@[simp] theorem State.answerTo_vt (s : State) (a : Agent) : (s.answerTo a).vt = s.vt := rfl
@[simp] theorem State.answerTo_inFlight (s : State) (a : Agent) : (s.answerTo a).inFlight = s.inFlight := rfl
@[simp] theorem State.answerTo_rsp (s : State) (a : Agent) : (s.answerTo a).rsp = s.rsp := rfl
@[simp] theorem State.answerTo_rspTo (s : State) (a : Agent) : (s.answerTo a).rspTo = a := rfl
@[simp] theorem State.answerTo_inputs (s : State) (a : Agent) : (s.answerTo a).inputs = s.inputs := rfl

@[simp] theorem State.dropInFlight_cfg (s : State) (a : Agent) : (s.dropInFlight a).cfg = s.cfg := rfl
@[simp] theorem State.dropInFlight_units (s : State) (a : Agent) : (s.dropInFlight a).units = s.units := rfl
@[simp] theorem State.dropInFlight_out (s : State) (a : Agent) : (s.dropInFlight a).out = s.out := rfl
@[simp] theorem State.dropInFlight_vt (s : State) (a : Agent) : (s.dropInFlight a).vt = s.vt := rfl
@[simp] theorem State.dropInFlight_inFlight (s : State) (a : Agent) : (s.dropInFlight a).inFlight = s.inFlight.filter fun c => decide (c.agent ≠ a) := rfl
@[simp] theorem State.dropInFlight_rsp (s : State) (a : Agent) : (s.dropInFlight a).rsp = s.rsp := rfl
@[simp] theorem State.dropInFlight_rspTo (s : State) (a : Agent) : (s.dropInFlight a).rspTo = s.rspTo := rfl
@[simp] theorem State.dropInFlight_inputs (s : State) (a : Agent) : (s.dropInFlight a).inputs = s.inputs := rfl

@[simp] theorem State.keepInFlight_cfg (s : State) (c : InFlight) : (s.keepInFlight c).cfg = s.cfg := rfl
@[simp] theorem State.keepInFlight_units (s : State) (c : InFlight) : (s.keepInFlight c).units = s.units := rfl
@[simp] theorem State.keepInFlight_out (s : State) (c : InFlight) : (s.keepInFlight c).out = s.out := rfl
@[simp] theorem State.keepInFlight_vt (s : State) (c : InFlight) : (s.keepInFlight c).vt = s.vt := rfl
@[simp] theorem State.keepInFlight_inFlight (s : State) (c : InFlight) : (s.keepInFlight c).inFlight = s.inFlight.map fun d => if d.agent = c.agent then c else d := rfl
@[simp] theorem State.keepInFlight_rsp (s : State) (c : InFlight) : (s.keepInFlight c).rsp = s.rsp := rfl
@[simp] theorem State.keepInFlight_rspTo (s : State) (c : InFlight) : (s.keepInFlight c).rspTo = s.rspTo := rfl
@[simp] theorem State.keepInFlight_inputs (s : State) (c : InFlight) : (s.keepInFlight c).inputs = s.inputs := rfl

@[simp] theorem ApicUnit.updatePpr_base (u : ApicUnit) : u.updatePpr.base = u.base := rfl
@[simp] theorem ApicUnit.updatePpr_id (u : ApicUnit) : u.updatePpr.id = u.id := rfl
@[simp] theorem ApicUnit.updatePpr_version (u : ApicUnit) : u.updatePpr.version = u.version := rfl
@[simp] theorem ApicUnit.updatePpr_tpr (u : ApicUnit) : u.updatePpr.tpr = u.tpr := rfl
@[simp] theorem ApicUnit.updatePpr_apr (u : ApicUnit) : u.updatePpr.apr = u.apr := rfl
@[simp] theorem ApicUnit.updatePpr_ppr (u : ApicUnit) : u.updatePpr.ppr = pprValue u.tpr u.isr := rfl
@[simp] theorem ApicUnit.updatePpr_ldr (u : ApicUnit) : u.updatePpr.ldr = u.ldr := rfl
@[simp] theorem ApicUnit.updatePpr_dfr (u : ApicUnit) : u.updatePpr.dfr = u.dfr := rfl
@[simp] theorem ApicUnit.updatePpr_svr (u : ApicUnit) : u.updatePpr.svr = u.svr := rfl
@[simp] theorem ApicUnit.updatePpr_isr (u : ApicUnit) : u.updatePpr.isr = u.isr := rfl
@[simp] theorem ApicUnit.updatePpr_tmr (u : ApicUnit) : u.updatePpr.tmr = u.tmr := rfl
@[simp] theorem ApicUnit.updatePpr_irr (u : ApicUnit) : u.updatePpr.irr = u.irr := rfl
@[simp] theorem ApicUnit.updatePpr_esr (u : ApicUnit) : u.updatePpr.esr = u.esr := rfl
@[simp] theorem ApicUnit.updatePpr_icrLo (u : ApicUnit) : u.updatePpr.icrLo = u.icrLo := rfl
@[simp] theorem ApicUnit.updatePpr_icrHi (u : ApicUnit) : u.updatePpr.icrHi = u.icrHi := rfl
@[simp] theorem ApicUnit.updatePpr_lvtTimer (u : ApicUnit) : u.updatePpr.lvtTimer = u.lvtTimer := rfl
@[simp] theorem ApicUnit.updatePpr_lvtThermal (u : ApicUnit) : u.updatePpr.lvtThermal = u.lvtThermal := rfl
@[simp] theorem ApicUnit.updatePpr_lvtPerf (u : ApicUnit) : u.updatePpr.lvtPerf = u.lvtPerf := rfl
@[simp] theorem ApicUnit.updatePpr_lvtLint0 (u : ApicUnit) : u.updatePpr.lvtLint0 = u.lvtLint0 := rfl
@[simp] theorem ApicUnit.updatePpr_lvtLint1 (u : ApicUnit) : u.updatePpr.lvtLint1 = u.lvtLint1 := rfl
@[simp] theorem ApicUnit.updatePpr_lvtError (u : ApicUnit) : u.updatePpr.lvtError = u.lvtError := rfl
@[simp] theorem ApicUnit.updatePpr_timerIcr (u : ApicUnit) : u.updatePpr.timerIcr = u.timerIcr := rfl
@[simp] theorem ApicUnit.updatePpr_timerDcr (u : ApicUnit) : u.updatePpr.timerDcr = u.timerDcr := rfl
@[simp] theorem ApicUnit.updatePpr_pibE (u : ApicUnit) : u.updatePpr.pibE = u.pibE := rfl
@[simp] theorem ApicUnit.updatePpr_pibL (u : ApicUnit) : u.updatePpr.pibL = u.pibL := rfl
@[simp] theorem ApicUnit.updatePpr_tag (u : ApicUnit) : u.updatePpr.tag = u.tag := rfl
@[simp] theorem ApicUnit.updatePpr_timArmed (u : ApicUnit) : u.updatePpr.timArmed = u.timArmed := rfl
@[simp] theorem ApicUnit.updatePpr_timArmAt (u : ApicUnit) : u.updatePpr.timArmAt = u.timArmAt := rfl
@[simp] theorem ApicUnit.updatePpr_timDeadline (u : ApicUnit) : u.updatePpr.timDeadline = u.timDeadline := rfl
@[simp] theorem ApicUnit.updatePpr_timShift (u : ApicUnit) : u.updatePpr.timShift = u.timShift := rfl
@[simp] theorem ApicUnit.updatePpr_intr (u : ApicUnit) : u.updatePpr.intr = u.intr := rfl
@[simp] theorem ApicUnit.updatePpr_nmi (u : ApicUnit) : u.updatePpr.nmi = u.nmi := rfl
@[simp] theorem ApicUnit.updatePpr_smi (u : ApicUnit) : u.updatePpr.smi = u.smi := rfl
@[simp] theorem ApicUnit.updatePpr_extint (u : ApicUnit) : u.updatePpr.extint = u.extint := rfl

@[simp] theorem ApicUnit.signalIfPending_base (u : ApicUnit) : u.signalIfPending.base = u.base := rfl
@[simp] theorem ApicUnit.signalIfPending_id (u : ApicUnit) : u.signalIfPending.id = u.id := rfl
@[simp] theorem ApicUnit.signalIfPending_version (u : ApicUnit) : u.signalIfPending.version = u.version := rfl
@[simp] theorem ApicUnit.signalIfPending_tpr (u : ApicUnit) : u.signalIfPending.tpr = u.tpr := rfl
@[simp] theorem ApicUnit.signalIfPending_apr (u : ApicUnit) : u.signalIfPending.apr = u.apr := rfl
@[simp] theorem ApicUnit.signalIfPending_ppr (u : ApicUnit) : u.signalIfPending.ppr = u.ppr := rfl
@[simp] theorem ApicUnit.signalIfPending_ldr (u : ApicUnit) : u.signalIfPending.ldr = u.ldr := rfl
@[simp] theorem ApicUnit.signalIfPending_dfr (u : ApicUnit) : u.signalIfPending.dfr = u.dfr := rfl
@[simp] theorem ApicUnit.signalIfPending_svr (u : ApicUnit) : u.signalIfPending.svr = u.svr := rfl
@[simp] theorem ApicUnit.signalIfPending_isr (u : ApicUnit) : u.signalIfPending.isr = u.isr := rfl
@[simp] theorem ApicUnit.signalIfPending_tmr (u : ApicUnit) : u.signalIfPending.tmr = u.tmr := rfl
@[simp] theorem ApicUnit.signalIfPending_irr (u : ApicUnit) : u.signalIfPending.irr = u.irr := rfl
@[simp] theorem ApicUnit.signalIfPending_esr (u : ApicUnit) : u.signalIfPending.esr = u.esr := rfl
@[simp] theorem ApicUnit.signalIfPending_icrLo (u : ApicUnit) : u.signalIfPending.icrLo = u.icrLo := rfl
@[simp] theorem ApicUnit.signalIfPending_icrHi (u : ApicUnit) : u.signalIfPending.icrHi = u.icrHi := rfl
@[simp] theorem ApicUnit.signalIfPending_lvtTimer (u : ApicUnit) : u.signalIfPending.lvtTimer = u.lvtTimer := rfl
@[simp] theorem ApicUnit.signalIfPending_lvtThermal (u : ApicUnit) : u.signalIfPending.lvtThermal = u.lvtThermal := rfl
@[simp] theorem ApicUnit.signalIfPending_lvtPerf (u : ApicUnit) : u.signalIfPending.lvtPerf = u.lvtPerf := rfl
@[simp] theorem ApicUnit.signalIfPending_lvtLint0 (u : ApicUnit) : u.signalIfPending.lvtLint0 = u.lvtLint0 := rfl
@[simp] theorem ApicUnit.signalIfPending_lvtLint1 (u : ApicUnit) : u.signalIfPending.lvtLint1 = u.lvtLint1 := rfl
@[simp] theorem ApicUnit.signalIfPending_lvtError (u : ApicUnit) : u.signalIfPending.lvtError = u.lvtError := rfl
@[simp] theorem ApicUnit.signalIfPending_timerIcr (u : ApicUnit) : u.signalIfPending.timerIcr = u.timerIcr := rfl
@[simp] theorem ApicUnit.signalIfPending_timerDcr (u : ApicUnit) : u.signalIfPending.timerDcr = u.timerDcr := rfl
@[simp] theorem ApicUnit.signalIfPending_pibE (u : ApicUnit) : u.signalIfPending.pibE = u.pibE := rfl
@[simp] theorem ApicUnit.signalIfPending_pibL (u : ApicUnit) : u.signalIfPending.pibL = u.pibL := rfl
@[simp] theorem ApicUnit.signalIfPending_tag (u : ApicUnit) : u.signalIfPending.tag = u.tag := rfl
@[simp] theorem ApicUnit.signalIfPending_timArmed (u : ApicUnit) : u.signalIfPending.timArmed = u.timArmed := rfl
@[simp] theorem ApicUnit.signalIfPending_timArmAt (u : ApicUnit) : u.signalIfPending.timArmAt = u.timArmAt := rfl
@[simp] theorem ApicUnit.signalIfPending_timDeadline (u : ApicUnit) : u.signalIfPending.timDeadline = u.timDeadline := rfl
@[simp] theorem ApicUnit.signalIfPending_timShift (u : ApicUnit) : u.signalIfPending.timShift = u.timShift := rfl
@[simp] theorem ApicUnit.signalIfPending_intr (u : ApicUnit) : u.signalIfPending.intr = u.intrValue := rfl
@[simp] theorem ApicUnit.signalIfPending_nmi (u : ApicUnit) : u.signalIfPending.nmi = u.nmi := rfl
@[simp] theorem ApicUnit.signalIfPending_smi (u : ApicUnit) : u.signalIfPending.smi = u.smi := rfl
@[simp] theorem ApicUnit.signalIfPending_extint (u : ApicUnit) : u.signalIfPending.extint = u.extint := rfl

@[simp] theorem ApicUnit.orEsr_base (u : ApicUnit) (m : Word32) : (u.orEsr m).base = u.base := rfl
@[simp] theorem ApicUnit.orEsr_id (u : ApicUnit) (m : Word32) : (u.orEsr m).id = u.id := rfl
@[simp] theorem ApicUnit.orEsr_version (u : ApicUnit) (m : Word32) : (u.orEsr m).version = u.version := rfl
@[simp] theorem ApicUnit.orEsr_tpr (u : ApicUnit) (m : Word32) : (u.orEsr m).tpr = u.tpr := rfl
@[simp] theorem ApicUnit.orEsr_apr (u : ApicUnit) (m : Word32) : (u.orEsr m).apr = u.apr := rfl
@[simp] theorem ApicUnit.orEsr_ppr (u : ApicUnit) (m : Word32) : (u.orEsr m).ppr = u.ppr := rfl
@[simp] theorem ApicUnit.orEsr_ldr (u : ApicUnit) (m : Word32) : (u.orEsr m).ldr = u.ldr := rfl
@[simp] theorem ApicUnit.orEsr_dfr (u : ApicUnit) (m : Word32) : (u.orEsr m).dfr = u.dfr := rfl
@[simp] theorem ApicUnit.orEsr_svr (u : ApicUnit) (m : Word32) : (u.orEsr m).svr = u.svr := rfl
@[simp] theorem ApicUnit.orEsr_isr (u : ApicUnit) (m : Word32) : (u.orEsr m).isr = u.isr := rfl
@[simp] theorem ApicUnit.orEsr_tmr (u : ApicUnit) (m : Word32) : (u.orEsr m).tmr = u.tmr := rfl
@[simp] theorem ApicUnit.orEsr_irr (u : ApicUnit) (m : Word32) : (u.orEsr m).irr = u.irr := rfl
@[simp] theorem ApicUnit.orEsr_esr (u : ApicUnit) (m : Word32) : (u.orEsr m).esr = u.esr ||| m := rfl
@[simp] theorem ApicUnit.orEsr_icrLo (u : ApicUnit) (m : Word32) : (u.orEsr m).icrLo = u.icrLo := rfl
@[simp] theorem ApicUnit.orEsr_icrHi (u : ApicUnit) (m : Word32) : (u.orEsr m).icrHi = u.icrHi := rfl
@[simp] theorem ApicUnit.orEsr_lvtTimer (u : ApicUnit) (m : Word32) : (u.orEsr m).lvtTimer = u.lvtTimer := rfl
@[simp] theorem ApicUnit.orEsr_lvtThermal (u : ApicUnit) (m : Word32) : (u.orEsr m).lvtThermal = u.lvtThermal := rfl
@[simp] theorem ApicUnit.orEsr_lvtPerf (u : ApicUnit) (m : Word32) : (u.orEsr m).lvtPerf = u.lvtPerf := rfl
@[simp] theorem ApicUnit.orEsr_lvtLint0 (u : ApicUnit) (m : Word32) : (u.orEsr m).lvtLint0 = u.lvtLint0 := rfl
@[simp] theorem ApicUnit.orEsr_lvtLint1 (u : ApicUnit) (m : Word32) : (u.orEsr m).lvtLint1 = u.lvtLint1 := rfl
@[simp] theorem ApicUnit.orEsr_lvtError (u : ApicUnit) (m : Word32) : (u.orEsr m).lvtError = u.lvtError := rfl
@[simp] theorem ApicUnit.orEsr_timerIcr (u : ApicUnit) (m : Word32) : (u.orEsr m).timerIcr = u.timerIcr := rfl
@[simp] theorem ApicUnit.orEsr_timerDcr (u : ApicUnit) (m : Word32) : (u.orEsr m).timerDcr = u.timerDcr := rfl
@[simp] theorem ApicUnit.orEsr_pibE (u : ApicUnit) (m : Word32) : (u.orEsr m).pibE = u.pibE := rfl
@[simp] theorem ApicUnit.orEsr_pibL (u : ApicUnit) (m : Word32) : (u.orEsr m).pibL = u.pibL := rfl
@[simp] theorem ApicUnit.orEsr_tag (u : ApicUnit) (m : Word32) : (u.orEsr m).tag = u.tag := rfl
@[simp] theorem ApicUnit.orEsr_timArmed (u : ApicUnit) (m : Word32) : (u.orEsr m).timArmed = u.timArmed := rfl
@[simp] theorem ApicUnit.orEsr_timArmAt (u : ApicUnit) (m : Word32) : (u.orEsr m).timArmAt = u.timArmAt := rfl
@[simp] theorem ApicUnit.orEsr_timDeadline (u : ApicUnit) (m : Word32) : (u.orEsr m).timDeadline = u.timDeadline := rfl
@[simp] theorem ApicUnit.orEsr_timShift (u : ApicUnit) (m : Word32) : (u.orEsr m).timShift = u.timShift := rfl
@[simp] theorem ApicUnit.orEsr_intr (u : ApicUnit) (m : Word32) : (u.orEsr m).intr = u.intr := rfl
@[simp] theorem ApicUnit.orEsr_nmi (u : ApicUnit) (m : Word32) : (u.orEsr m).nmi = u.nmi := rfl
@[simp] theorem ApicUnit.orEsr_smi (u : ApicUnit) (m : Word32) : (u.orEsr m).smi = u.smi := rfl
@[simp] theorem ApicUnit.orEsr_extint (u : ApicUnit) (m : Word32) : (u.orEsr m).extint = u.extint := rfl

@[simp] theorem ApicUnit.stopTimer_base (u : ApicUnit) : u.stopTimer.base = u.base := rfl
@[simp] theorem ApicUnit.stopTimer_id (u : ApicUnit) : u.stopTimer.id = u.id := rfl
@[simp] theorem ApicUnit.stopTimer_version (u : ApicUnit) : u.stopTimer.version = u.version := rfl
@[simp] theorem ApicUnit.stopTimer_tpr (u : ApicUnit) : u.stopTimer.tpr = u.tpr := rfl
@[simp] theorem ApicUnit.stopTimer_apr (u : ApicUnit) : u.stopTimer.apr = u.apr := rfl
@[simp] theorem ApicUnit.stopTimer_ppr (u : ApicUnit) : u.stopTimer.ppr = u.ppr := rfl
@[simp] theorem ApicUnit.stopTimer_ldr (u : ApicUnit) : u.stopTimer.ldr = u.ldr := rfl
@[simp] theorem ApicUnit.stopTimer_dfr (u : ApicUnit) : u.stopTimer.dfr = u.dfr := rfl
@[simp] theorem ApicUnit.stopTimer_svr (u : ApicUnit) : u.stopTimer.svr = u.svr := rfl
@[simp] theorem ApicUnit.stopTimer_isr (u : ApicUnit) : u.stopTimer.isr = u.isr := rfl
@[simp] theorem ApicUnit.stopTimer_tmr (u : ApicUnit) : u.stopTimer.tmr = u.tmr := rfl
@[simp] theorem ApicUnit.stopTimer_irr (u : ApicUnit) : u.stopTimer.irr = u.irr := rfl
@[simp] theorem ApicUnit.stopTimer_esr (u : ApicUnit) : u.stopTimer.esr = u.esr := rfl
@[simp] theorem ApicUnit.stopTimer_icrLo (u : ApicUnit) : u.stopTimer.icrLo = u.icrLo := rfl
@[simp] theorem ApicUnit.stopTimer_icrHi (u : ApicUnit) : u.stopTimer.icrHi = u.icrHi := rfl
@[simp] theorem ApicUnit.stopTimer_lvtTimer (u : ApicUnit) : u.stopTimer.lvtTimer = u.lvtTimer := rfl
@[simp] theorem ApicUnit.stopTimer_lvtThermal (u : ApicUnit) : u.stopTimer.lvtThermal = u.lvtThermal := rfl
@[simp] theorem ApicUnit.stopTimer_lvtPerf (u : ApicUnit) : u.stopTimer.lvtPerf = u.lvtPerf := rfl
@[simp] theorem ApicUnit.stopTimer_lvtLint0 (u : ApicUnit) : u.stopTimer.lvtLint0 = u.lvtLint0 := rfl
@[simp] theorem ApicUnit.stopTimer_lvtLint1 (u : ApicUnit) : u.stopTimer.lvtLint1 = u.lvtLint1 := rfl
@[simp] theorem ApicUnit.stopTimer_lvtError (u : ApicUnit) : u.stopTimer.lvtError = u.lvtError := rfl
@[simp] theorem ApicUnit.stopTimer_timerIcr (u : ApicUnit) : u.stopTimer.timerIcr = u.timerIcr := rfl
@[simp] theorem ApicUnit.stopTimer_timerDcr (u : ApicUnit) : u.stopTimer.timerDcr = u.timerDcr := rfl
@[simp] theorem ApicUnit.stopTimer_pibE (u : ApicUnit) : u.stopTimer.pibE = u.pibE := rfl
@[simp] theorem ApicUnit.stopTimer_pibL (u : ApicUnit) : u.stopTimer.pibL = u.pibL := rfl
@[simp] theorem ApicUnit.stopTimer_tag (u : ApicUnit) : u.stopTimer.tag = u.tag := rfl
@[simp] theorem ApicUnit.stopTimer_timArmed (u : ApicUnit) : u.stopTimer.timArmed = false := rfl
@[simp] theorem ApicUnit.stopTimer_timArmAt (u : ApicUnit) : u.stopTimer.timArmAt = u.timArmAt := rfl
@[simp] theorem ApicUnit.stopTimer_timDeadline (u : ApicUnit) : u.stopTimer.timDeadline = u.timDeadline := rfl
@[simp] theorem ApicUnit.stopTimer_timShift (u : ApicUnit) : u.stopTimer.timShift = u.timShift := rfl
@[simp] theorem ApicUnit.stopTimer_intr (u : ApicUnit) : u.stopTimer.intr = u.intr := rfl
@[simp] theorem ApicUnit.stopTimer_nmi (u : ApicUnit) : u.stopTimer.nmi = u.nmi := rfl
@[simp] theorem ApicUnit.stopTimer_smi (u : ApicUnit) : u.stopTimer.smi = u.smi := rfl
@[simp] theorem ApicUnit.stopTimer_extint (u : ApicUnit) : u.stopTimer.extint = u.extint := rfl

end Sys2Proof.Machine
end

