-- ==== Sys2Proof/Laws/Flags.lean ====
section
/-! SUPPORT. What `hi`, the vector sets and the priority classes say, once (R8, R90, R120, R121). -/

namespace Sys2Proof.Machine

@[simp] theorem hasVec_setVec (r : VecSet) (v w : Vec) : hasVec (setVec r v) w = (hasVec r w || decide (w = v)) := by
  have hw : w.toNat < 256 := w.isLt
  have hv : v.toNat < 256 := v.isLt
  simp only [hasVec, setVec, BitVec.getLsbD_or, BitVec.getLsbD_shiftLeft, BitVec.getLsbD_one]
  by_cases h : w = v
  · subst h; simp [hw]
  · have hne : w.toNat ≠ v.toNat := fun he => h (BitVec.eq_of_toNat_eq he)
    simp only [h, decide_false, Bool.or_false]
    rcases Nat.lt_or_gt_of_ne hne with hlt | hgt
    · simp [hlt]
    · have : ¬ (w.toNat - v.toNat = 0) := by omega
      simp [this]

@[simp] theorem hasVec_clearVec (r : VecSet) (v w : Vec) : hasVec (clearVec r v) w = (hasVec r w && !decide (w = v)) := by
  have hw : w.toNat < 256 := w.isLt
  simp only [hasVec, clearVec, BitVec.getLsbD_and, BitVec.getLsbD_not, BitVec.getLsbD_shiftLeft, BitVec.getLsbD_one]
  by_cases h : w = v
  · subst h; simp [hw]
  · have hne : w.toNat ≠ v.toNat := fun he => h (BitVec.eq_of_toNat_eq he)
    simp only [h, decide_false, Bool.not_false, Bool.and_true]
    rcases Nat.lt_or_gt_of_ne hne with hlt | hgt
    · simp [hw, hlt]
    · have : ¬ (w.toNat - v.toNat = 0) := by omega
      simp [hw, this]

theorem hasVec_ext {r r' : VecSet} (h : ∀ v, hasVec r v = hasVec r' v) : r = r' := by
  refine BitVec.eq_of_getLsbD_eq fun i hi => ?_
  have := h (BitVec.ofNat 8 i)
  simpa [hasVec, Nat.mod_eq_of_lt hi] using this

theorem highestBelow_none {r : VecSet} {n : Nat} (h : highestBelow r n = none) :
    ∀ k, k < n → r.getLsbD k = false := by
  induction n with
  | zero => intro k hk; omega
  | succ n ih =>
    unfold highestBelow at h
    split at h
    · cases h
    · rename_i hn
      intro k hk
      rcases Nat.lt_succ_iff_lt_or_eq.mp hk with hlt | heq
      · exact ih h k hlt
      · subst heq; simpa using hn

theorem highestBelow_some {r : VecSet} {n : Nat} {v : Vec} (hn : n ≤ 256) (h : highestBelow r n = some v) :
    v.toNat < n ∧ r.getLsbD v.toNat = true ∧ ∀ k, v.toNat < k → k < n → r.getLsbD k = false := by
  induction n with
  | zero => cases h
  | succ n ih =>
    unfold highestBelow at h
    split at h
    · rename_i hb
      cases h
      have hv : (BitVec.ofNat 8 n).toNat = n := by simp; omega
      rw [hv]
      exact ⟨by omega, hb, fun k h1 h2 => by omega⟩
    · rename_i hb
      obtain ⟨h1, h2, h3⟩ := ih (by omega) h
      refine ⟨by omega, h2, fun k hk hk' => ?_⟩
      rcases Nat.lt_succ_iff_lt_or_eq.mp hk' with hlt | heq
      · exact h3 k hk hlt
      · subst heq; simpa using hb

theorem highestBelow_zero (n : Nat) : highestBelow 0 n = none := by
  induction n with
  | zero => rfl
  | succ n ih => simpa [highestBelow] using ih

/-- `hi(R)` is none exactly when R is all zero (R8). -/
theorem highest_eq_none {r : VecSet} : highest r = none ↔ r = 0 := by
  constructor
  · intro h
    refine BitVec.eq_of_getLsbD_eq fun i hi => ?_
    simpa using highestBelow_none h i hi
  · rintro rfl; exact highestBelow_zero 256

/-- `hi(R)` is v exactly when v is in R and no larger vector is (R8). -/
theorem highest_eq_some {r : VecSet} {v : Vec} :
    highest r = some v ↔ hasVec r v = true ∧ ∀ w : Vec, v.toNat < w.toNat → hasVec r w = false := by
  constructor
  · intro h
    obtain ⟨-, h2, h3⟩ := highestBelow_some (Nat.le_refl 256) h
    exact ⟨h2, fun w hw => h3 w.toNat hw w.isLt⟩
  · rintro ⟨h1, h2⟩
    cases h : highest r with
    | none =>
      rw [highest_eq_none] at h
      subst h
      simp [hasVec] at h1
    | some w =>
      obtain ⟨-, h4, h5⟩ := highestBelow_some (Nat.le_refl 256) h
      rcases Nat.lt_trichotomy v.toNat w.toNat with hlt | heq | hgt
      · have := h2 w hlt
        simp only [hasVec] at this
        rw [h4] at this
        cases this
      · exact congrArg some (BitVec.eq_of_toNat_eq heq.symm)
      · have := h5 v.toNat hgt v.isLt
        simp only [hasVec] at h1
        rw [h1] at this
        cases this

/-- A class is the vector over 16 (R90). -/
theorem classOf_toNat (x : BitVec 8) : (classOf x).toNat = x.toNat / 16 := by
  have := x.isLt
  simp [classOf, BitVec.extractLsb'_toNat, Nat.shiftRight_eq_div_pow]
  omega

/-- The class of PPR is the larger of the TPR class and the in-service class (R121). -/
theorem pprValue_class (tpr : Word32) (isr : VecSet) :
    (pprValue tpr isr).extractLsb' 4 4 =
      if (serviceClass isr).toNat ≤ (taskClass tpr).toNat then taskClass tpr else serviceClass isr := by
  unfold pprValue
  split
  · refine BitVec.eq_of_getLsbD_eq fun i hi => ?_
    have h1 : 4 + i < 8 := by omega
    have h2 : 4 + i < 32 := by omega
    simp [taskClass, hi, h1, h2]
  · refine BitVec.eq_of_getLsbD_eq fun i hi => ?_
    have h2 : 4 + i < 32 := by omega
    have h3 : ¬ (4 + i < 4) := by omega
    simp only [BitVec.getLsbD_extractLsb', hi, BitVec.getLsbD_setWidth, h2, decide_true, Bool.true_and]
    rw [BitVec.getLsbD_append]
    simp [h3]

end Sys2Proof.Machine
end

