-- ==== Sys2Proof/Laws/Moves.lean ====
section
/-! SUPPORT. What a step can do, said once: every unit goes through a chain of the unit-level moves listed here, the
configuration and the number of units stay, and the output trace only grows. An invariant of the units needs one small
lemma per move (`UnitMove`), and `step_moves` carries it to every step. -/

namespace Sys2Proof.Machine

/-- What one atomic effect can do to unit i of a machine with configuration `c` at time `now`. -/
inductive UnitMove (c : Config) (now : Word64) (i : Nat) : ApicUnit → ApicUnit → Prop where
  | powerOn (u : ApicUnit) : UnitMove c now i u (u.powerOn c i)
  | initReset (u : ApicUnit) : UnitMove c now i u (u.regsReset c i false)
  | changeBase (u : ApicUnit) (x : Word64) (h : baseRejected c u x = false) : UnitMove c now i u (u.changeBase c i x)
  | updatePpr (u : ApicUnit) : UnitMove c now i u u.updatePpr
  | signalIfPending (u : ApicUnit) : UnitMove c now i u u.signalIfPending
  | acknowledge (u : ApicUnit) (v : Vec) : UnitMove c now i u (u.acknowledge v)
  | endInterrupt (u : ApicUnit) (v : Vec) : UnitMove c now i u (u.endInterrupt v)
  | queueToService (u : ApicUnit) (v : Vec) : UnitMove c now i u (u.queueToService v)
  | dequeueFromService (u : ApicUnit) (v : Vec) : UnitMove c now i u (u.dequeueFromService v)
  | sendError (u : ApicUnit) : UnitMove c now i u (u.orEsr esrSendIllegal)
  | receiveError (u : ApicUnit) : UnitMove c now i u (u.orEsr esrReceiveIllegal)
  | registerError (u : ApicUnit) : UnitMove c now i u (u.orEsr esrIllegalRegister)
  | stagePost (u : ApicUnit) (v : Vec) (trig : Trigger) (tag : Word32) : UnitMove c now i u (u.stagePost v trig tag)
  | setNotify (u : ApicUnit) (trig : Trigger) : UnitMove c now i u (u.setNotify trig)
  | clearNotify (u : ApicUnit) (trig : Trigger) : UnitMove c now i u (u.clearNotify trig)
  | drainWord (u : ApicUnit) (trig : Trigger) (k : Fin 4) : UnitMove c now i u (u.drainWord trig k)
  | raiseSignal (u : ApicUnit) (sig : Signal) : UnitMove c now i u (u.raiseSignal sig)
  | extintLevel (u : ApicUnit) (b : Bool) : UnitMove c now i u { u with extint := b }
  | takeNmi (u : ApicUnit) : UnitMove c now i u { u with nmi := false }
  | takeSmi (u : ApicUnit) : UnitMove c now i u { u with smi := false }
  | latch (u : ApicUnit) : UnitMove c now i u { u with lvtLint0 := u.lvtLint0 ||| 1#32 <<< 14 }
  | setInitialCount (u : ApicUnit) (n : Word32) : UnitMove c now i u (u.setInitialCount now n)
  | expire (u : ApicUnit) (h : u.timerDue now = true) : UnitMove c now i u (u.expire now)
  | stopTimer (u : ApicUnit) : UnitMove c now i u u.stopTimer
  | writeTpr (u : ApicUnit) (x : Word32) : UnitMove c now i u (u.writeTpr x)
  | writeSvr (u : ApicUnit) (x : Word32) (h : x &&& ~~~c.valid.svr = 0) : UnitMove c now i u (u.writeSvr x)
  | storeLdr (u : ApicUnit) (x : Word32) (hm : u.mode ≠ .x2apic) (h : x &&& ~~~c.valid.ldr = 0) :
      UnitMove c now i u { u with ldr := x }
  | storeDfr (u : ApicUnit) (x : Word32) : UnitMove c now i u { u with dfr := x ||| 0x0FFFFFFF#32 }
  | clearEsr (u : ApicUnit) : UnitMove c now i u { u with esr := 0 }
  | storeIcrHi (u : ApicUnit) (x : Word32) (h : x &&& ~~~c.valid.icrHi = 0) : UnitMove c now i u { u with icrHi := x }
  | storeIcrLo (u : ApicUnit) (x : Word32) (h : x &&& ~~~c.valid.icrLo = 0) : UnitMove c now i u { u with icrLo := x }
  | storeIcr64 (u : ApicUnit) (x : Word64) (hm : u.mode = .x2apic) (h : x &&& ~~~c.valid.icr64 = 0) :
      UnitMove c now i u { u with icrHi := x.extractLsb' 32 32, icrLo := x.extractLsb' 0 32 }
  | writeLvt (u : ApicUnit) (l : Lvt) (x : Word32) (h : x &&& ~~~(c.lvtMask l) = 0) : UnitMove c now i u (u.writeLvt l x)
  | storeDcr (u : ApicUnit) (x : Word32) (h : x &&& ~~~c.valid.timerDcr = 0) : UnitMove c now i u { u with timerDcr := x }

/-- A chain of moves. -/
abbrev UnitMoves (c : Config) (now : Word64) (i : Nat) : ApicUnit → ApicUnit → Prop :=
  Relation.ReflTransGen (UnitMove c now i)

/-- An invariant of a unit that every move keeps is kept by every chain of moves. -/
theorem UnitMoves.keeps {c : Config} {now : Word64} {i : Nat} {P : ApicUnit → Prop}
    (hP : ∀ u u', UnitMove c now i u u' → P u → P u') {u u' : ApicUnit} (h : UnitMoves c now i u u') (hu : P u) :
    P u' := by
  induction h with
  | refl => exact hu
  | tail _ hm ih => exact hP _ _ hm ih

/-- What a command can do to the state: the units move, `OUT` grows, and nothing else but the response changes. -/
structure CommandMoves (s t : State) : Prop where
  cfg : t.cfg = s.cfg
  vt : t.vt = s.vt
  inFlight : t.inFlight = s.inFlight
  inputs : t.inputs = s.inputs
  rspTo : t.rspTo = s.rspTo
  length : t.units.length = s.units.length
  out : s.out <+: t.out
  units : ∀ (i : Nat) (u u' : ApicUnit), s.units[i]? = some u → t.units[i]? = some u' → UnitMoves s.cfg s.vt i u u'

theorem CommandMoves.refl (s : State) : CommandMoves s s where
  cfg := rfl
  vt := rfl
  inFlight := rfl
  inputs := rfl
  rspTo := rfl
  length := rfl
  out := List.prefix_refl _
  units := by
    intro i u u' h h'
    rw [h] at h'
    cases h'
    exact Relation.ReflTransGen.refl

theorem CommandMoves.trans {s t r : State} (h : CommandMoves s t) (h' : CommandMoves t r) : CommandMoves s r where
  cfg := h'.cfg.trans h.cfg
  vt := h'.vt.trans h.vt
  inFlight := h'.inFlight.trans h.inFlight
  inputs := h'.inputs.trans h.inputs
  rspTo := h'.rspTo.trans h.rspTo
  length := h'.length.trans h.length
  out := h.out.trans h'.out
  units := by
    intro i u u'' hu hu''
    have hi : i < t.units.length := by
      rw [h.length]
      exact (List.getElem?_eq_some_iff.mp hu).1
    have ht : t.units[i]? = some t.units[i] := List.getElem?_eq_getElem hi
    have h2 := h'.units i _ u'' ht hu''
    rw [h.cfg, h.vt] at h2
    exact (h.units i u _ hu ht).trans h2

theorem CommandMoves.answer (s : State) (st : Status) (v : Vec) (a : Word32) (d : Word64) :
    CommandMoves s (s.answer st v a d) :=
  { CommandMoves.refl s with }

theorem CommandMoves.respond (s : State) (st : Status) : CommandMoves s (s.respond st) :=
  CommandMoves.answer s st 0 0 0

theorem CommandMoves.respondData (s : State) (d : Word64) : CommandMoves s (s.respondData d) :=
  CommandMoves.answer s .ok 0 0 d

theorem CommandMoves.emit (s : State) (es : List Event) : CommandMoves s (s.emit es) :=
  { CommandMoves.refl s with out := List.prefix_append _ _ }

theorem CommandMoves.setUnit {s : State} {i : Nat} {u u' : ApicUnit} (h : s.units[i]? = some u)
    (hm : UnitMoves s.cfg s.vt i u u') : CommandMoves s (s.setUnit i u') where
  cfg := rfl
  vt := rfl
  inFlight := rfl
  inputs := rfl
  rspTo := rfl
  length := by simp
  out := List.prefix_refl _
  units := by
    intro j v v' hv hv'
    simp only [State.setUnit_units, List.getElem?_set] at hv'
    split at hv'
    · rename_i hij
      subst hij
      rw [h] at hv
      cases hv
      split at hv'
      · cases hv'; exact hm
      · cases hv'
    · rw [hv] at hv'
      cases hv'
      exact Relation.ReflTransGen.refl

theorem CommandMoves.setUnit_one {s : State} {i : Nat} {u u' : ApicUnit} (h : s.units[i]? = some u)
    (hm : UnitMove s.cfg s.vt i u u') : CommandMoves s (s.setUnit i u') :=
  CommandMoves.setUnit h (Relation.ReflTransGen.single hm)

theorem CommandMoves.mapUnit (s : State) (i : Nat) (f : ApicUnit → ApicUnit)
    (hf : ∀ u, UnitMoves s.cfg s.vt i u (f u)) : CommandMoves s (s.mapUnit i f) := by
  unfold State.mapUnit
  split
  · exact CommandMoves.refl s
  · rename_i u hu
    exact CommandMoves.setUnit hu (hf u)

theorem CommandMoves.mapUnit_one (s : State) (i : Nat) (f : ApicUnit → ApicUnit)
    (hf : ∀ u, UnitMove s.cfg s.vt i u (f u)) : CommandMoves s (s.mapUnit i f) :=
  CommandMoves.mapUnit s i f fun u => Relation.ReflTransGen.single (hf u)

/-- Every atomic step is a command's move. -/
theorem atomicStep_moves (a : AtomicStep) (s : State) (p : Progress) : CommandMoves s (atomicStep a s p).1 := by
  cases a with
  | enableCheck t seen => exact CommandMoves.refl s
  | postRead t v =>
    simp only [atomicStep]
    split
    · exact CommandMoves.refl s
    · split
      · exact CommandMoves.mapUnit_one s t _ fun u => UnitMove.receiveError u
      · split <;> exact CommandMoves.refl s
  | postSet t v trig tag =>
    simp only [atomicStep]
    split
    · exact CommandMoves.mapUnit_one s t _ fun u => UnitMove.stagePost u v trig tag
    · exact CommandMoves.refl s
  | postNotify t trig =>
    simp only [atomicStep]
    split
    · exact (CommandMoves.emit s _).trans (CommandMoves.mapUnit_one _ t _ fun u => UnitMove.setNotify u trig)
    · exact CommandMoves.refl s
  | raiseSignal t sig => exact CommandMoves.mapUnit_one s t _ fun u => UnitMove.raiseSignal u sig
  | emitEvent e => exact CommandMoves.emit s [e]
  | recordSendError t => exact CommandMoves.mapUnit_one s t _ fun u => UnitMove.sendError u
  | foldNotify t trig => exact CommandMoves.mapUnit_one s t _ fun u => UnitMove.clearNotify u trig
  | foldWord t trig k =>
    refine CommandMoves.mapUnit s t _ fun u => ?_
    split
    · exact (Relation.ReflTransGen.single (UnitMove.drainWord u trig k)).tail (UnitMove.signalIfPending _)
    · exact Relation.ReflTransGen.single (UnitMove.drainWord u trig k)
  | latchLint0 t =>
    simp only [atomicStep]
    split
    · exact CommandMoves.mapUnit_one s t _ fun u => UnitMove.latch u
    · exact CommandMoves.refl s

theorem runSteps_moves (as : List AtomicStep) (s : State) (p : Progress) : CommandMoves s (runSteps as s p).1 := by
  induction as generalizing s p with
  | nil => exact CommandMoves.refl s
  | cons a rest ih => exact (atomicStep_moves a s p).trans (ih _ _)

/-- A plan run to its end moves as its first atomic step does. -/
theorem complete_moves {s : State} {p : Plan} (h : CommandMoves s p.state) : CommandMoves s p.complete :=
  (h.trans (runSteps_moves p.todo p.state p.progress)).trans (CommandMoves.respond _ _)

theorem onUnit_moves {s : State} {i : Nat} {k : ApicUnit → State}
    (h : ∀ u, s.units[i]? = some u → CommandMoves s (k u)) : CommandMoves s (onUnit s i k) := by
  unfold onUnit
  split
  · exact CommandMoves.respond s _
  · rename_i u hu
    exact h u hu

theorem planOnUnit_moves {s : State} {i : Nat} {k : ApicUnit → Plan}
    (h : ∀ u, s.units[i]? = some u → CommandMoves s (k u).state) : CommandMoves s (planOnUnit s i k).state := by
  unfold planOnUnit
  split
  · exact CommandMoves.refl s
  · rename_i u hu
    exact h u hu

theorem setUnit_respond_moves {s : State} {i : Nat} {u u' : ApicUnit} (h : s.units[i]? = some u)
    (hm : UnitMove s.cfg s.vt i u u') (st : Status) : CommandMoves s ((s.setUnit i u').respond st) :=
  (CommandMoves.setUnit_one h hm).trans (CommandMoves.respond _ _)

theorem endOfInterrupt_moves {s : State} {i : Nat} {u : ApicUnit} (h : s.units[i]? = some u) :
    CommandMoves s (s.endOfInterrupt i u) := by
  unfold State.endOfInterrupt
  split
  · exact CommandMoves.refl s
  · rename_i v _
    exact (CommandMoves.emit s _).trans (CommandMoves.setUnit_one (by simpa using h) (UnitMove.endInterrupt u v))

/-- A send begins with a state that is the one it reads. -/
@[simp] theorem sendPlan_state (s : State) (sender : Option Nat) (v : Vec) (trig : Trigger) (dm : DeliveryMode)
    (targets : List Nat) (tag : Word32) (priv : Bool) (read : List Nat) (after : List AtomicStep) (finish : Finish) :
    (sendPlan s sender v trig dm targets tag priv read after finish).state = s := by
  unfold sendPlan Plan.done
  split <;> rfl

@[simp] theorem sendFromIcr_state (s : State) (i : Nat) (u : ApicUnit) (priv : Bool) :
    (sendFromIcr s i u priv).state = s := by
  unfold sendFromIcr
  split
  · rfl
  · split
    · rfl
    · exact sendPlan_state ..

theorem and_mask_ok (x m : Word32) : (x &&& m) &&& ~~~m = 0 := by
  refine BitVec.eq_of_getLsbD_eq fun k hk => ?_
  simp only [BitVec.getLsbD_and, BitVec.getLsbD_not, hk]
  cases x.getLsbD k <;> cases m.getLsbD k <;> simp

/-- A 64-bit value inside a 32-bit mask has its low half inside the mask. -/
theorem low_half_mask_ok {x : Word64} {m : Word32} (h : x &&& ~~~(m.setWidth 64) = 0) :
    x.extractLsb' 0 32 &&& ~~~m = 0 := by
  refine BitVec.eq_of_getLsbD_eq fun k hk => ?_
  have hk' : k < 64 := by omega
  have := congrArg (fun y => y.getLsbD k) h
  simp only [BitVec.getLsbD_and, BitVec.getLsbD_not, BitVec.getLsbD_setWidth, hk', decide_true,
    Bool.true_and] at this
  simpa [BitVec.getLsbD_and, BitVec.getLsbD_not, hk] using this

/-- The write effect of a register with an admitted value. A register that is read-only in the unit's mode is not
written. -/
theorem writeEffect_moves {s : State} {i : Nat} {u : ApicUnit} {r : Reg} {x : Word32} (priv : Bool)
    (h : s.units[i]? = some u) (hldr : r = .ldr → u.mode ≠ .x2apic) (hx : x &&& ~~~(s.cfg.mmioMask r) = 0) :
    CommandMoves s (writeEffect s i u r x priv).state := by
  cases r with
  | id => exact CommandMoves.refl s
  | version => exact CommandMoves.refl s
  | tpr => exact CommandMoves.setUnit_one h (UnitMove.writeTpr u x)
  | apr => exact CommandMoves.refl s
  | ppr => exact CommandMoves.refl s
  | eoi => exact endOfInterrupt_moves h
  | ldr => exact CommandMoves.setUnit_one h (UnitMove.storeLdr u x (hldr rfl) hx)
  | dfr => exact CommandMoves.setUnit_one h (UnitMove.storeDfr u x)
  | svr => exact CommandMoves.setUnit_one h (UnitMove.writeSvr u x hx)
  | isr k => exact CommandMoves.refl s
  | tmr k => exact CommandMoves.refl s
  | irr k => exact CommandMoves.refl s
  | esr => exact CommandMoves.setUnit_one h (UnitMove.clearEsr u)
  | icrLo =>
    simp only [writeEffect, writeIcrLo, sendFromIcr_state]
    exact CommandMoves.setUnit_one h (UnitMove.storeIcrLo u x hx)
  | icrHi => exact CommandMoves.setUnit_one h (UnitMove.storeIcrHi u x hx)
  | lvt l => exact CommandMoves.setUnit_one h (UnitMove.writeLvt u l x hx)
  | timerIcr => exact CommandMoves.setUnit_one h (UnitMove.setInitialCount u x)
  | timerCcr => exact CommandMoves.refl s
  | timerDcr => exact CommandMoves.setUnit_one h (UnitMove.storeDcr u x hx)

theorem planWriteReg_moves (i : Nat) (off x : Word32) (priv : Bool) (s : State) :
    CommandMoves s (planWriteReg i off x priv s).state := by
  refine planOnUnit_moves fun u hu => ?_
  split
  · exact CommandMoves.refl s
  · split
    · exact CommandMoves.refl s
    · rename_i hm
      split
      · exact CommandMoves.refl s
      · split
        · exact CommandMoves.refl s
        · refine writeEffect_moves priv hu (fun _ => ?_) (and_mask_ok _ _)
          intro hx
          rw [hx] at hm
          exact hm (by decide)

theorem msrMask_low {c : Config} {r : Reg} {x : Word64} (hr : r ≠ .icrLo) (hro : r.msrAccess ≠ .ro)
    (h : x &&& ~~~(c.msrMask r) = 0) : x.extractLsb' 0 32 &&& ~~~(c.mmioMask r) = 0 := by
  cases r with
  | icrLo => exact absurd rfl hr
  | eoi =>
    simp [Config.mmioMask]
  | esr =>
    simp [Config.mmioMask]
  | _ => exact low_half_mask_ok h

theorem planWriteMsr_moves (i : Nat) (idx : Word32) (x : Word64) (priv : Bool) (s : State) :
    CommandMoves s (planWriteMsr i idx x priv s).state := by
  refine planOnUnit_moves fun u hu => ?_
  split
  · exact CommandMoves.refl s
  · split
    · exact CommandMoves.refl s
    · rename_i hmode
      split
      · exact CommandMoves.refl s
      · rename_i r _
        split
        · exact CommandMoves.refl s
        · rename_i hro
          split
          · exact CommandMoves.refl s
          · split
            · exact CommandMoves.refl s
            · rename_i hmask
              have hmask' := not_not.mp hmask
              split
              · exact CommandMoves.refl s
              · split
                · rename_i hr
                  subst hr
                  simp only [writeIcr64, sendFromIcr_state]
                  exact CommandMoves.setUnit_one hu (UnitMove.storeIcr64 u x (not_not.mp hmode) hmask')
                · rename_i hr
                  refine writeEffect_moves priv hu (fun hl => ?_) (msrMask_low hr hro hmask')
                  subst hl
                  exact absurd rfl hro

theorem planPost_moves (t : Nat) (v : Vec) (trig : Trigger) (tag : Word32) (s : State) :
    CommandMoves s (planPost t v trig tag s).state :=
  planOnUnit_moves fun _ _ => CommandMoves.refl s

theorem planFold_moves (i : Nat) (s : State) : CommandMoves s (planFold i s).state :=
  planOnUnit_moves fun _ _ => CommandMoves.refl s

theorem planTimerExpire_moves (i : Nat) (s : State) : CommandMoves s (planTimerExpire i s).state := by
  refine planOnUnit_moves fun u hu => ?_
  split
  · rename_i hdue
    exact CommandMoves.setUnit_one hu (UnitMove.expire u hdue)
  · exact CommandMoves.refl s

theorem planSendIpiFromIcr_moves (i : Nat) (priv : Bool) (s : State) :
    CommandMoves s (planSendIpiFromIcr i priv s).state := by
  refine planOnUnit_moves fun u _ => ?_
  rw [sendFromIcr_state]
  exact CommandMoves.refl s

theorem planBusDeliver_moves (v : Vec) (dm : DeliveryMode) (d : DestMode) (t : Trigger) (pol : Bool) (g m : Word32)
    (priv : Bool) (s : State) : CommandMoves s (planBusDeliver v dm d t pol g m priv s).state := by
  unfold planBusDeliver
  split
  · exact CommandMoves.refl s
  · rw [sendPlan_state]
    exact CommandMoves.refl s

theorem planLocalInterrupt_moves (i : Nat) (pin : Pin) (level priv : Bool) (s : State) :
    CommandMoves s (planLocalInterrupt i pin level priv s).state := by
  refine planOnUnit_moves fun u hu => ?_
  simp only []
  split
  · exact CommandMoves.refl s
  · split
    · exact CommandMoves.refl s
    · split
      · exact CommandMoves.setUnit_one hu (UnitMove.extintLevel u level)
      · split
        · unfold localFixed
          simp only []
          split
          · exact CommandMoves.refl s
          · rw [sendPlan_state]; exact CommandMoves.refl s
        · exact CommandMoves.refl s
      all_goals
        split
        · first
          | exact CommandMoves.refl s
          | (rw [sendPlan_state]; exact CommandMoves.refl s)
        · exact CommandMoves.refl s

/-- What a whole command can do (R82): it answers a next state, whose units moved. -/
theorem exec_moves {i : Instr} {s t : State} (h : exec i s = .next t) : CommandMoves s t := by
  cases i with
  | reset i =>
    cases h
    exact onUnit_moves fun u hu => setUnit_respond_moves hu (UnitMove.powerOn u) _
  | init i =>
    cases h
    exact onUnit_moves fun u hu => setUnit_respond_moves hu (UnitMove.initReset u) _
  | readReg i off =>
    cases h
    refine onUnit_moves fun u hu => ?_
    split
    · exact CommandMoves.respond s _
    · split
      · exact CommandMoves.respond s _
      · split
        · exact (CommandMoves.setUnit_one hu (UnitMove.registerError u)).trans (CommandMoves.respondData _ _)
        · exact CommandMoves.respondData s _
  | writeReg i off x p => cases h; exact complete_moves (planWriteReg_moves i off x p s)
  | readMsr i idx =>
    cases h
    refine onUnit_moves fun u hu => ?_
    split
    · exact CommandMoves.respond s _
    · split
      · exact CommandMoves.respond s _
      · split
        · exact CommandMoves.respond s _
        · split
          · exact CommandMoves.respond s _
          · split <;> exact CommandMoves.respondData s _
  | writeMsr i idx x p => cases h; exact complete_moves (planWriteMsr_moves i idx x p s)
  | getBase i => cases h; exact onUnit_moves fun u _ => CommandMoves.respondData s _
  | setBase i x =>
    cases h
    refine onUnit_moves fun u hu => ?_
    split
    · exact CommandMoves.respond s _
    · rename_i hb
      exact setUnit_respond_moves hu (UnitMove.changeBase u x (by simpa using hb)) _
  | updatePpr i => cases h; exact onUnit_moves fun u hu => setUnit_respond_moves hu (UnitMove.updatePpr u) _
  | signalIfPending i => cases h; exact onUnit_moves fun u hu => setUnit_respond_moves hu (UnitMove.signalIfPending u) _
  | getNext i =>
    cases h
    refine onUnit_moves fun u hu => ?_
    split
    · exact CommandMoves.respond s _
    · split
      · exact CommandMoves.respond s _
      · rename_i v _
        split
        · exact CommandMoves.answer s _ _ _ _
        · split
          · exact CommandMoves.respond s _
          · exact (CommandMoves.setUnit_one hu (UnitMove.acknowledge u v)).trans (CommandMoves.answer _ _ _ _ _)
  | eoi i x =>
    cases h
    exact onUnit_moves fun u hu => (endOfInterrupt_moves hu).trans (CommandMoves.respond _ _)
  | queueToService i v => cases h; exact onUnit_moves fun u hu => setUnit_respond_moves hu (UnitMove.queueToService u v) _
  | dequeueFromService i v =>
    cases h
    exact onUnit_moves fun u hu => setUnit_respond_moves hu (UnitMove.dequeueFromService u v) _
  | post i v t g => cases h; exact complete_moves (planPost_moves i v t g s)
  | fold i => cases h; exact complete_moves (planFold_moves i s)
  | setInitialCount i n =>
    cases h
    exact onUnit_moves fun u hu => setUnit_respond_moves hu (UnitMove.setInitialCount u n) _
  | getCurrentCount i => cases h; exact onUnit_moves fun u _ => CommandMoves.respondData s _
  | timerExpire i => cases h; exact complete_moves (planTimerExpire_moves i s)
  | stopTimer i => cases h; exact onUnit_moves fun u hu => setUnit_respond_moves hu (UnitMove.stopTimer u) _
  | sendIpiFromIcr i p => cases h; exact complete_moves (planSendIpiFromIcr_moves i p s)
  | busDeliver v dm d t pol g m p => cases h; exact complete_moves (planBusDeliver_moves v dm d t pol g m p s)
  | localInterrupt i pin l p => cases h; exact complete_moves (planLocalInterrupt_moves i pin l p s)

theorem planOf_moves {i : Instr} {s : State} {p : Plan} (h : planOf i s = some p) : CommandMoves s p.state := by
  cases i <;> simp only [planOf, Option.some.injEq, reduceCtorEq] at h <;> subst h
  · exact planWriteReg_moves _ _ _ _ s
  · exact planWriteMsr_moves _ _ _ _ s
  · exact planPost_moves _ _ _ _ s
  · exact planFold_moves _ s
  · exact planTimerExpire_moves _ s
  · exact planSendIpiFromIcr_moves _ _ s
  · exact planBusDeliver_moves _ _ _ _ _ _ _ _ s
  · exact planLocalInterrupt_moves _ _ _ _ s

/-- What a step can do: the configuration and the number of units stay, `VT` does not go back and stays inside its bound,
`OUT` grows, and every unit moves. -/
structure StepMoves (s t : State) : Prop where
  cfg : t.cfg = s.cfg
  vt : s.vt.toNat ≤ t.vt.toNat
  vtBound : s.vt.toNat ≤ vtBound → t.vt.toNat ≤ vtBound
  length : t.units.length = s.units.length
  out : s.out <+: t.out
  units : ∀ (i : Nat) (u u' : ApicUnit), s.units[i]? = some u → t.units[i]? = some u' → UnitMoves s.cfg s.vt i u u'

theorem CommandMoves.toStep {s t : State} (h : CommandMoves s t) : StepMoves s t where
  cfg := h.cfg
  vt := by rw [h.vt]
  vtBound := by rw [h.vt]; exact id
  length := h.length
  out := h.out
  units := h.units

theorem StepMoves.of_eq {s s' t t' : State} (h : StepMoves s t) (hc : s'.cfg = s.cfg) (hv : s'.vt = s.vt)
    (hu : s'.units = s.units) (ho : s'.out = s.out) (hc' : t'.cfg = t.cfg) (hv' : t'.vt = t.vt)
    (hu' : t'.units = t.units) (ho' : t'.out = t.out) : StepMoves s' t' where
  cfg := by rw [hc, hc', h.cfg]
  vt := by rw [hv, hv']; exact h.vt
  vtBound := by rw [hv, hv']; exact h.vtBound
  length := by rw [hu, hu', h.length]
  out := by rw [ho, ho']; exact h.out
  units := by rw [hc, hv, hu, hu']; exact h.units

theorem answerOutcome_next {a : Agent} {o : Host.Outcome State Fault Refusal} {t : State}
    (h : answerOutcome a o = .next t) : ∃ r, o = .next r ∧ t = r.answerTo a := by
  cases o with
  | next r => exact ⟨r, rfl, by cases h; rfl⟩
  | fault r => cases h
  | refused r => cases h

/-- The command port either answers `ILLEGAL_OPCODE` or runs the command it decoded. -/
theorem takeWord_next {a : Agent} {w : PortWord} {s t : State} {run : Instr → Host.Outcome State Fault Refusal}
    (h : takeWord a w s run = .next t) :
    s.busy a = false ∧
      ((∃ e, decode w = .error e ∧ t = (s.respond .illegalOpcode).answerTo a) ∨
        ∃ i, decode w = .ok i ∧ mayIssue a i = true ∧ run i = .next t) := by
  unfold takeWord at h
  split at h
  · cases h
  · rename_i hb
    refine ⟨by simpa using hb, ?_⟩
    split at h
    · rename_i e he
      cases h
      exact .inl ⟨e, he, rfl⟩
    · rename_i i hi
      split at h
      · rename_i hm
        exact .inr ⟨i, hi, hm, h⟩
      · cases h

theorem begin_moves {a : Agent} {s : State} {p : Plan} (h : CommandMoves s p.state) : StepMoves s (State.begin a p) := by
  unfold State.begin
  split
  · exact (complete_moves h).toStep.of_eq rfl rfl rfl rfl rfl rfl rfl rfl
  · exact h.toStep.of_eq rfl rfl rfl rfl rfl rfl rfl rfl

theorem advanceCommand_moves (c : InFlight) (s : State) : StepMoves s (advanceCommand c s) := by
  unfold advanceCommand
  split
  · exact (CommandMoves.refl s).toStep.of_eq rfl rfl rfl rfl rfl rfl rfl rfl
  · rename_i a rest _
    simp only []
    split
    · exact (atomicStep_moves a s c.progress).toStep.of_eq rfl rfl rfl rfl rfl rfl rfl rfl
    · exact (atomicStep_moves a s c.progress).toStep.of_eq rfl rfl rfl rfl rfl rfl rfl rfl

theorem runInput_moves {inp : Input} {s t : State} (h : runInput inp s = .next t) : StepMoves s t := by
  cases inp with
  | issue a w =>
    obtain ⟨-, ⟨e, -, rfl⟩ | ⟨i, -, -, hr⟩⟩ := takeWord_next h
    · exact (CommandMoves.refl s).toStep.of_eq rfl rfl rfl rfl rfl rfl rfl rfl
    · obtain ⟨r, hx, rfl⟩ := answerOutcome_next hr
      exact (exec_moves hx).toStep.of_eq rfl rfl rfl rfl rfl rfl rfl rfl
  | start a w =>
    obtain ⟨-, ⟨e, -, rfl⟩ | ⟨i, -, -, hr⟩⟩ := takeWord_next h
    · exact (CommandMoves.refl s).toStep.of_eq rfl rfl rfl rfl rfl rfl rfl rfl
    · unfold startCommand at hr
      split at hr
      · rename_i p hp
        cases hr
        exact begin_moves (planOf_moves hp)
      · obtain ⟨r, hx, rfl⟩ := answerOutcome_next hr
        exact (exec_moves hx).toStep.of_eq rfl rfl rfl rfl rfl rfl rfl rfl
  | advance a =>
    simp only [runInput] at h
    split at h
    · cases h
    · cases h
      exact advanceCommand_moves _ s
  | time vt =>
    simp only [runInput] at h
    split at h
    · rename_i hv
      cases h
      exact
        { cfg := rfl
          vt := hv.1
          vtBound := fun _ => hv.2
          length := rfl
          out := List.prefix_refl _
          units := (CommandMoves.refl s).units }
    · cases h
  | takeNmi i =>
    cases h
    exact (CommandMoves.mapUnit_one s i _ fun u => UnitMove.takeNmi u).toStep
  | takeSmi i =>
    cases h
    exact (CommandMoves.mapUnit_one s i _ fun u => UnitMove.takeSmi u).toStep

/-- Every step of the machine is a `StepMoves`. -/
theorem step_moves {s t : State} (h : step s = .next t) : StepMoves s t := by
  unfold step at h
  split at h
  · cases h
    exact (CommandMoves.refl s).toStep
  · exact (runInput_moves h).of_eq rfl rfl rfl rfl rfl rfl rfl rfl

/-- An invariant of the units that every move keeps is kept by every step (the unit's index, the configuration and the
time may be used). -/
theorem step_keeps_units {s t : State} {P : Nat → ApicUnit → Prop}
    (hP : ∀ i u u', UnitMove s.cfg s.vt i u u' → P i u → P i u') (h : step s = .next t)
    (hs : ∀ i u, s.units[i]? = some u → P i u) : ∀ i u, t.units[i]? = some u → P i u := by
  intro i u' hu'
  have hm := step_moves h
  have hi : i < s.units.length := by
    rw [← hm.length]
    exact (List.getElem?_eq_some_iff.mp hu').1
  have hu : s.units[i]? = some s.units[i] := List.getElem?_eq_getElem hi
  exact UnitMoves.keeps (hP i) (hm.units i _ u' hu hu') (hs i _ hu)

end Sys2Proof.Machine
end

