-- ==== Sys2Proof/Laws/Ports.lean ====
section
/-! SUPPORT. What the two register ports, the response word and `GET_NEXT` can do, said once. -/

namespace Sys2Proof.Machine

/-- A command that is over with its first step completes to its answer. -/
@[simp] theorem Plan.done_complete (s : State) (st : Status) : (Plan.done s st).complete = s.respond st := rfl

/-- With the default tables the register at an offset is the one of R53. -/
theorem regAt_standard {c : Config} (h : StandardTables c) (n : Nat) : c.regAt n = standardRegMap.lookup n := by
  simp [Config.regAt, h.1]

/-- An MMIO write of a register that is not read-only is its write effect with the masked value (R222). -/
theorem writeReg_effect {s : State} {i : Nat} {u : ApicUnit} {off x : Word32} {r : Reg} {p : Bool}
    (h : MmioReaches s i u) (hb : badOffset off = false) (hr : standardRegMap.lookup off.toNat = some r)
    (ha : r.mmioAccess ≠ .ro) :
    exec (.writeReg i off x p) s = .next (writeEffect s i u r (x &&& s.cfg.mmioMask r) p).complete := by
  obtain ⟨h, hm, hs⟩ := h
  simp [exec, execWriteReg, planWriteReg, planOnUnit, h, hm, regAt_standard hs, hb, hr, ha]

/-- An MMIO read of a defined offset answers its register (R221). -/
theorem readReg_answer {s : State} {i : Nat} {u : ApicUnit} {off : Word32} {r : Reg} (h : MmioReaches s i u)
    (hb : badOffset off = false) (hr : standardRegMap.lookup off.toNat = some r) :
    exec (.readReg i off) s = .next (s.respondData ((u.readReg s.vt r).setWidth 64)) := by
  obtain ⟨h, hm, hs⟩ := h
  simp [exec, execReadReg, onUnit, h, hm, regAt_standard hs, hb, hr, ApicUnit.pageRead32]

/-- The register of an MSR index inside the range, available in x2APIC mode (R52, R226). -/
theorem msrReg_standard {c : Config} (hs : StandardTables c) {idx : Word32} {r : Reg} (hi : idx.toNat < 0x840)
    (hi' : 0x800 ≤ idx.toNat) (hr : standardRegMap.lookup ((idx.toNat - 0x800) * 16) = some r)
    (ha : r.msrAccess ≠ .unavailable) : c.msrReg idx = some r := by
  have : c.msrOffset idx = some ((idx.toNat - 0x800) * 16) := by
    simp [Config.msrOffset, hs.2.2]; omega
  simp [Config.msrReg, this, regAt_standard hs, hr, ha]

theorem extract_high_of_setWidth (x : Word32) : (x.setWidth 64).extractLsb' 32 32 = 0#32 := by
  refine BitVec.eq_of_getLsbD_eq fun k hk => ?_
  simp [BitVec.getLsbD_extractLsb', BitVec.getLsbD_setWidth]

theorem extract_low_of_setWidth (x : Word32) : (x.setWidth 64).extractLsb' 0 32 = x := by
  refine BitVec.eq_of_getLsbD_eq fun k hk => ?_
  simp only [BitVec.getLsbD_extractLsb', BitVec.getLsbD_setWidth, hk, decide_true, Bool.true_and, Nat.zero_add]
  simp
  omega

/-- An MSR write of an admitted value in a register other than the ICR is its write effect (R227). -/
theorem writeMsr_effect {s : State} {i : Nat} {u : ApicUnit} {idx : Word32} {r : Reg} {x : Word32} {p : Bool}
    (h : MsrReaches s i u) (hi : idx.toNat < 0x840) (hi' : 0x800 ≤ idx.toNat)
    (hr : standardRegMap.lookup ((idx.toNat - 0x800) * 16) = some r) (ha : r.msrAccess = .rw ∨ r.msrAccess = .wo)
    (hn : r ≠ .icrLo) (hx : x.setWidth 64 &&& ~~~(s.cfg.msrMask r) = 0) :
    exec (.writeMsr i idx (x.setWidth 64) p) s = .next (writeEffect s i u r x p).complete := by
  obtain ⟨h, hm, hx', hs⟩ := h
  have hu : r.msrAccess ≠ .unavailable := by rcases ha with h | h <;> simp [h]
  have hro : r.msrAccess ≠ .ro := by rcases ha with h | h <;> simp [h]
  simp only [exec, execWriteMsr, planWriteMsr, planOnUnit, h, hm, hx', msrReg_standard hs hi hi' hr hu]
  simp [hro, extract_high_of_setWidth, extract_low_of_setWidth, hx, hn]

/-- An MSR read of a readable register other than the ICR answers the register (R226). -/
theorem readMsr_answer {s : State} {i : Nat} {u : ApicUnit} {idx : Word32} {r : Reg} (h : MsrReaches s i u)
    (hi : idx.toNat < 0x840) (hi' : 0x800 ≤ idx.toNat) (hr : standardRegMap.lookup ((idx.toNat - 0x800) * 16) = some r)
    (ha : r.msrAccess = .rw ∨ r.msrAccess = .ro) (hn : r ≠ .icrLo) :
    exec (.readMsr i idx) s = .next (s.respondData ((u.readReg s.vt r).setWidth 64)) := by
  obtain ⟨h, hm, hx', hs⟩ := h
  have hu : r.msrAccess ≠ .unavailable := by rcases ha with h | h <;> simp [h]
  have hro : r.msrAccess ≠ .wo := by rcases ha with h | h <;> simp [h]
  simp only [exec, execReadMsr, onUnit, h, hm, hx', msrReg_standard hs hi hi' hr hu]
  simp [hro, hn]

/-- A value inside a 32-bit mask is inside the mask's 64-bit form. -/
theorem setWidth_mask_ok {x m : Word32} (h : x &&& m = x) : x.setWidth 64 &&& ~~~(m.setWidth 64) = 0#64 := by
  refine BitVec.eq_of_getLsbD_eq fun k hk => ?_
  have := congrArg (fun y => y.getLsbD k) h
  simp only [BitVec.getLsbD_and] at this
  simp only [BitVec.getLsbD_and, BitVec.getLsbD_not, BitVec.getLsbD_setWidth, hk, decide_true, Bool.true_and,
    BitVec.getLsbD_zero]
  rw [← this]
  cases x.getLsbD k <;> cases m.getLsbD k <;> rfl

/-- The status field of five joined fields (R85). -/
theorem append_status (c v : BitVec 8) (z : BitVec 16) (a : Word32) (d : Word64) :
    (c ++ v ++ z ++ a ++ d).extractLsb' 120 8 = c := by
  apply BitVec.eq_of_toNat_eq
  have := c.isLt; have := v.isLt; have := z.isLt; have := a.isLt; have := d.isLt
  simp only [BitVec.extractLsb'_toNat, BitVec.toNat_append, Nat.shiftRight_eq_div_pow]
  rw [← Nat.shiftLeft_add_eq_or_of_lt d.isLt, ← Nat.shiftLeft_add_eq_or_of_lt a.isLt,
    ← Nat.shiftLeft_add_eq_or_of_lt z.isLt, ← Nat.shiftLeft_add_eq_or_of_lt v.isLt]
  simp only [Nat.shiftLeft_eq]
  omega

/-- The vector field of five joined fields (R85). -/
theorem append_vector (c v : BitVec 8) (z : BitVec 16) (a : Word32) (d : Word64) :
    (c ++ v ++ z ++ a ++ d).extractLsb' 112 8 = v := by
  apply BitVec.eq_of_toNat_eq
  have := c.isLt; have := v.isLt; have := z.isLt; have := a.isLt; have := d.isLt
  simp only [BitVec.extractLsb'_toNat, BitVec.toNat_append, Nat.shiftRight_eq_div_pow]
  rw [← Nat.shiftLeft_add_eq_or_of_lt d.isLt, ← Nat.shiftLeft_add_eq_or_of_lt a.isLt,
    ← Nat.shiftLeft_add_eq_or_of_lt z.isLt, ← Nat.shiftLeft_add_eq_or_of_lt v.isLt]
  simp only [Nat.shiftLeft_eq]
  omega

/-- The fields of a response word (R85). -/
theorem responseWord_fields (st : Status) (v : Vec) (a : Word32) (d : Word64) :
    (responseWord st v a d).extractLsb' 120 8 = st.code ∧ (responseWord st v a d).extractLsb' 112 8 = v :=
  ⟨append_status .., append_vector ..⟩

/-- What `GET_NEXT` has found when it answers a delivery (R125, case (e)). -/
theorem getNext_ok {s t : State} {i : Nat} {u : ApicUnit} {v : Vec} {g : Word32} (h : s.units[i]? = some u)
    (he : exec (.getNext i) s = .next t) (hr : t.rsp = responseWord .ok v g 0) :
    u.isEnabled = true ∧ u.softEnabled = true ∧ highest u.irr = some v ∧
    ¬ ((classOf v).toNat ≤ (taskClass u.tpr).toNat) ∧
    ¬ (u.ppr.extractLsb' 0 8 ≠ 0 ∧ (classOf v).toNat ≤ (u.ppr.extractLsb' 4 4).toNat) ∧
    t = (s.setUnit i (u.acknowledge v)).answer .ok v (u.tag.read v.toNat) 0 := by
  have hcode : ∀ {st st' : Status} {v v' : Vec} {a a' : Word32} {d d' : Word64},
      responseWord st v a d = responseWord st' v' a' d' → st.code = st'.code ∧ v = v' := by
    intro st st' v v' a a' d d' hw
    rw [← (responseWord_fields st v a d).1, ← (responseWord_fields st' v' a' d').1, hw]
    refine ⟨rfl, ?_⟩
    rw [← (responseWord_fields st v a d).2, ← (responseWord_fields st' v' a' d').2, hw]
  simp only [exec, execGetNext, onUnit, h, Host.Outcome.next.injEq] at he
  subst he
  split at hr
  · exact absurd (hcode hr).1 (by decide)
  · rename_i hen
    split at hr
    · exact absurd (hcode hr).1 (by decide)
    · rename_i v' hv'
      split at hr
      · exact absurd (hcode hr).1 (by decide)
      · rename_i hn1
        split at hr
        · exact absurd (hcode hr).1 (by decide)
        · rename_i hn2
          have := (hcode hr).2
          subst this
          simp only [not_or, Bool.not_eq_false] at hen
          refine ⟨hen.1, hen.2, hv', hn1, hn2, ?_⟩
          rw [if_neg (by simp [hen])]
          simp only [if_neg hn1, if_neg hn2]

/-- `hi` finds the largest vector of a set (R8). -/
theorem highest_is_max {r : VecSet} {v : Vec} (h : highest r = some v) :
    hasVec r v = true ∧ ∀ w : Vec, hasVec r w = true → w.toNat ≤ v.toNat := by
  have := highest_eq_some.mp h
  refine ⟨this.1, fun w hw => ?_⟩
  by_contra hc
  have := this.2 w (by omega)
  simp_all

/-- The largest vector of a set is what `hi` finds (R8). -/
theorem highest_of_max {r : VecSet} {v : Vec} (h : hasVec r v = true)
    (hm : ∀ w : Vec, hasVec r w = true → w.toNat ≤ v.toNat) : highest r = some v := by
  rw [highest_eq_some]
  refine ⟨h, fun w hw => ?_⟩
  cases hq : hasVec r w with
  | false => rfl
  | true =>
    have := hm w hq
    omega

end Sys2Proof.Machine
end

