-- ==== Sys2Proof/Laws/Sending.lean ====
section
/-! SUPPORT. What the shared operations of several atomic steps do when no step of another agent falls between: a post, a
send to a list of targets, a fold. Each lemma says everything its operation can do. -/

namespace Sys2Proof.Machine

theorem runSteps_append (as bs : List AtomicStep) (s : State) (p : Progress) :
    runSteps (as ++ bs) s p = runSteps bs (runSteps as s p).1 (runSteps as s p).2 := by
  induction as generalizing s p with
  | nil => rfl
  | cons a rest ih => exact ih _ _

theorem mapUnit_some {s : State} {i : Nat} {u : ApicUnit} (f : ApicUnit → ApicUnit) (h : s.units[i]? = some u) :
    s.mapUnit i f = s.setUnit i (f u) := by
  simp [State.mapUnit, h]

theorem unitHas_some {s : State} {i : Nat} {u : ApicUnit} (p : ApicUnit → Bool) (h : s.units[i]? = some u) :
    s.unitHas i p = p u := by
  simp [State.unitHas, h]

theorem set_self {us : List ApicUnit} {i : Nat} {u : ApicUnit} (h : us[i]? = some u) : us.set i u = us := by
  obtain ⟨hi, rfl⟩ := List.getElem?_eq_some_iff.mp h
  simp

@[simp] theorem mapIdx_self (us : List ApicUnit) : (us.mapIdx fun _ u => u) = us := by
  apply List.ext_getElem?
  simp

/-- The three steps of a post to a unit (R152): the unit is `posted`, it is woken if its flag was clear, and the post is
accepted unless the vector is illegal. -/
theorem runSteps_post {s : State} {t : Nat} {u : ApicUnit} (v : Vec) (trig : Trigger) (tag : Word32) (acc : Bool)
    (h : s.units[t]? = some u) :
    (runSteps (postSteps t v trig tag) s ⟨true, acc⟩).1 =
        { s with
          units := s.units.set t (u.posted v trig tag)
          out := s.out ++ (if u.postWakes v trig = true then [.wake t] else []) } ∧
      (runSteps (postSteps t v trig tag) s ⟨true, acc⟩).2.acc = (acc || decide (15 < v.toNat)) := by
  have ht : t < s.units.length := (List.getElem?_eq_some_iff.mp h).1
  by_cases hv : v.toNat ≤ 15
  · simp [postSteps, runSteps, atomicStep, illegalVector, hv, mapUnit_some _ h, State.setUnit, ApicUnit.orEsr,
      esrReceiveIllegal, ApicUnit.posted, ApicUnit.postWakes, Nat.not_lt.mpr hv]
  · have hlt : 15 < v.toNat := Nat.lt_of_not_le hv
    cases hp : hasVec u.irr v with
    | true =>
      simp [postSteps, runSteps, atomicStep, illegalVector, hv, unitHas_some _ h, hp, ApicUnit.posted,
        ApicUnit.postWakes, set_self h, hlt]
    | false =>
      have h' : (s.setUnit t (u.stagePost v trig tag)).units[t]? = some (u.stagePost v trig tag) := by simp [ht]
      have h'' : ∀ es, ((s.setUnit t (u.stagePost v trig tag)).emit es).units[t]? = some (u.stagePost v trig tag) :=
        fun _ => h'
      have e1 : atomicStep (.postRead t v) s ⟨true, acc⟩ = (s, ⟨true, acc⟩) := by
        simp [atomicStep, illegalVector, hv, unitHas_some _ h, hp]
      have e2 : atomicStep (.postSet t v trig tag) s ⟨true, acc⟩ =
          (s.setUnit t (u.stagePost v trig tag), ⟨true, acc⟩) := by
        simp only [atomicStep, if_true]
        rw [mapUnit_some _ h]
      have e3 : atomicStep (.postNotify t trig) (s.setUnit t (u.stagePost v trig tag)) ⟨true, acc⟩ =
          (((s.setUnit t (u.stagePost v trig tag)).emit
            (if ((u.stagePost v trig tag).pib trig).notify = true then [] else [.wake t])).setUnit t
              ((u.stagePost v trig tag).setNotify trig), ⟨true, true⟩) := by
        simp only [atomicStep, if_true]
        rw [unitHas_some _ h', mapUnit_some _ (h'' _)]
      simp only [postSteps, runSteps, e1, e2, e3, ApicUnit.posted, ApicUnit.postWakes, hv, hp, hlt]
      cases trig <;>
        simp [State.emit, State.setUnit, ApicUnit.stagePost, ApicUnit.setNotify, ApicUnit.pib, ApicUnit.setPib]
      · by_cases hn : u.pibE.notify = true <;> simp [hn]
      · by_cases hn : u.pibL.notify = true <;> simp [hn]

/-- What a Fixed or LowestPriority send does to one target (R200). -/
def fixedTarget (u : ApicUnit) (v : Vec) (trig : Trigger) (tag : Word32) : ApicUnit :=
  if u.isEnabled = true then u.posted v trig tag else u

/-- The enable bits a send knows in the state that its first step has read are the units' own. -/
theorem enableSeen_eq {s : State} {t : Nat} {read : List Nat} {b : Bool} (h : s.enableSeen read t = some b) :
    b = s.unitHas t ApicUnit.isEnabled := by
  unfold State.enableSeen at h
  split at h
  · exact (Option.some.inj h).symm
  · cases h

/-- The steps of a Fixed or LowestPriority send to one target that exists. -/
theorem runSteps_fixedTarget {s : State} {t : Nat} {u : ApicUnit} (v : Vec) (trig : Trigger) (tag : Word32) (p : Progress)
    {seen : Option Bool} (hseen : ∀ b, seen = some b → b = s.unitHas t ApicUnit.isEnabled) (h : s.units[t]? = some u) :
    (runSteps (.enableCheck t seen :: postSteps t v trig tag) s p).1 =
        { s with
          units := s.units.set t (fixedTarget u v trig tag)
          out := s.out ++ (if u.isEnabled = true ∧ u.postWakes v trig = true then [.wake t] else []) } ∧
      (runSteps (.enableCheck t seen :: postSteps t v trig tag) s p).2.acc =
        (p.acc || (decide (15 < v.toNat) && u.isEnabled)) := by
  have hlive : seen.getD (s.unitHas t ApicUnit.isEnabled) = u.isEnabled := by
    rw [← unitHas_some ApicUnit.isEnabled h]
    cases seen with
    | none => rfl
    | some b => exact hseen b rfl
  rw [show runSteps (.enableCheck t seen :: postSteps t v trig tag) s p =
    runSteps (postSteps t v trig tag) s { p with live := u.isEnabled } by simp [runSteps, atomicStep, hlive]]
  cases he : u.isEnabled with
  | true =>
    have := runSteps_post v trig tag p.acc h
    simpa [fixedTarget, he] using this
  | false => simp [postSteps, runSteps, atomicStep, fixedTarget, he, set_self h]

/-- The steps of a Fixed or LowestPriority send to a list of targets that exist, each once, for each unit by its own index
(R200, R201). -/
theorem runSteps_fixedTargets (v : Vec) (trig : Trigger) (tag : Word32) (seen : Nat → Option Bool)
    (targets : List Nat) :
    ∀ (s : State) (p : Progress), targets.Nodup → (∀ t ∈ targets, t < s.units.length) →
      (∀ t ∈ targets, ∀ b, seen t = some b → b = s.unitHas t ApicUnit.isEnabled) →
      let r := runSteps (targets.flatMap fun t => .enableCheck t (seen t) :: postSteps t v trig tag) s p
      r.1 = { s with
        units := postedUnits s.units targets v trig tag
        out := s.out ++ postedWakes s.units targets v trig } ∧
      r.2.acc = (p.acc || (decide (15 < v.toNat) && targets.any fun t => s.units[t]?.any ApicUnit.isEnabled)) := by
  induction targets with
  | nil =>
    intro s p _ _ _
    simp [runSteps, postedUnits, postedWakes]
  | cons t rest ih =>
    intro s p hnd hlt hseen
    obtain ⟨hnt, hnd'⟩ := List.nodup_cons.mp hnd
    have ht : t < s.units.length := hlt t (by simp)
    have h : s.units[t]? = some s.units[t] := List.getElem?_eq_getElem ht
    obtain ⟨h1, h2⟩ := runSteps_fixedTarget v trig tag p (hseen t (by simp)) h
    have hother : ∀ w ∈ rest, (s.units.set t (fixedTarget s.units[t] v trig tag))[w]? = s.units[w]? := by
      intro w hw
      exact List.getElem?_set_ne (by rintro rfl; exact hnt hw)
    have ih' := ih (runSteps (.enableCheck t (seen t) :: postSteps t v trig tag) s p).1
      (runSteps (.enableCheck t (seen t) :: postSteps t v trig tag) s p).2 hnd'
      (by rw [h1]; simpa using fun w hw => hlt w (by simp [hw]))
      (by
        intro w hw b hb
        rw [hseen w (by simp [hw]) b hb, h1]
        simp only [State.unitHas, hother w hw])
    obtain ⟨i1, i2⟩ := ih'
    rw [h1] at i1 i2
    simp only [List.flatMap_cons, runSteps_append]
    rw [h1]
    refine ⟨?_, ?_⟩
    · rw [i1]
      have e1 : postedUnits (s.units.set t (fixedTarget s.units[t] v trig tag)) rest v trig tag =
          postedUnits s.units (t :: rest) v trig tag := by
        apply List.ext_getElem?
        intro w
        simp only [postedUnits, List.getElem?_mapIdx]
        by_cases hw : w = t
        · subst hw
          simp [ht, hnt, fixedTarget]
        · rw [List.getElem?_set_ne (Ne.symm hw)]
          simp [hw]
      have e2 : postedWakes (s.units.set t (fixedTarget s.units[t] v trig tag)) rest v trig =
          postedWakes s.units rest v trig := by
        unfold postedWakes
        congr 1
        apply List.filter_congr
        intro w hw
        rw [hother w hw]
      simp only [e1, e2, List.append_assoc]
      congr 2
      simp only [postedWakes, List.filter_cons, h, Option.any_some, Bool.and_eq_true]
      split <;> simp
    · rw [i2, h2]
      have e3 : (rest.any fun w => (s.units.set t (fixedTarget s.units[t] v trig tag))[w]?.any ApicUnit.isEnabled) =
          rest.any fun w => s.units[w]?.any ApicUnit.isEnabled := by
        rw [Bool.eq_iff_iff, List.any_eq_true, List.any_eq_true]
        refine exists_congr fun w => and_congr_right fun hw => ?_
        rw [hother w hw]
      rw [e3]
      simp only [List.any_cons, h, Option.any_some]
      cases p.acc <;> cases decide (15 < v.toNat) <;> simp

/-- The steps of an SMI, NMI or ExtINT send (R200). -/
theorem runSteps_signal (sig : Signal) (targets : List Nat) :
    ∀ (s : State) (p : Progress), targets.Nodup →
      let r := runSteps (targets.flatMap fun t => [.raiseSignal t sig]) s p
      r.1 = { s with units := signalledUnits s.units targets sig } ∧ r.2.acc = (p.acc || !targets.isEmpty) := by
  induction targets with
  | nil =>
    intro s p _
    simp [runSteps, signalledUnits]
  | cons t rest ih =>
    intro s p hnd
    obtain ⟨hnt, hnd'⟩ := List.nodup_cons.mp hnd
    obtain ⟨i1, i2⟩ := ih (s.mapUnit t (·.raiseSignal sig)) { p with acc := true } hnd'
    simp only [List.flatMap_cons, List.cons_append, List.nil_append, runSteps, atomicStep]
    refine ⟨?_, by rw [i2]; simp⟩
    rw [i1]
    cases h : s.units[t]? with
    | none =>
      have hm : s.mapUnit t (·.raiseSignal sig) = s := by simp [State.mapUnit, h]
      rw [hm]
      congr 1
      apply List.ext_getElem?
      intro w
      simp only [signalledUnits, List.getElem?_mapIdx]
      by_cases hw : w = t
      · subst hw
        simp [h]
      · simp [hw]
    | some u =>
      have ht : t < s.units.length := (List.getElem?_eq_some_iff.mp h).1
      rw [mapUnit_some _ h]
      simp only [State.setUnit]
      congr 1
      apply List.ext_getElem?
      intro w
      simp only [signalledUnits, List.getElem?_mapIdx]
      by_cases hw : w = t
      · subst hw
        obtain rfl : s.units[w] = u := (List.getElem?_eq_some_iff.mp h).2
        simp [ht, hnt]
        cases sig <;> rfl
      · rw [List.getElem?_set_ne (Ne.symm hw)]
        simp [hw]

/-- The steps of an INIT or SIPI send (R200). -/
theorem runSteps_events (f : Nat → Event) (targets : List Nat) :
    ∀ (s : State) (p : Progress),
      let r := runSteps (targets.flatMap fun t => [.emitEvent (f t)]) s p
      r.1 = { s with out := s.out ++ targets.map f } ∧ r.2.acc = (p.acc || !targets.isEmpty) := by
  induction targets with
  | nil =>
    intro s p
    simp [runSteps]
  | cons t rest ih =>
    intro s p
    obtain ⟨i1, i2⟩ := ih (s.emit [f t]) { p with acc := true }
    simp only [List.flatMap_cons, List.cons_append, List.nil_append, runSteps, atomicStep]
    exact ⟨by rw [i1]; simp [State.emit], by rw [i2]; simp⟩

/-- A step that changes the unit it addresses, in a state that has the unit. -/
theorem mapUnit_set {s : State} {i : Nat} {u : ApicUnit} (f : ApicUnit → ApicUnit) (hi : i < s.units.length) :
    (s.setUnit i u).mapUnit i f = s.setUnit i (f u) := by
  simp [State.mapUnit, State.setUnit, hi]

theorem unitHas_set {s : State} {i : Nat} {u : ApicUnit} (p : ApicUnit → Bool) (hi : i < s.units.length) :
    (s.setUnit i u).unitHas i p = p u := by
  simp [State.unitHas, hi]

/-- The bits of word k of a bitmap (R32, R91). -/
theorem wordMask_bit (k : Fin 4) (n : Nat) : (wordMask k).getLsbD n = (decide (n < 256) && decide (n / 64 = k.val)) := by
  simp only [wordMask, BitVec.getLsbD_shiftLeft, BitVec.getLsbD_setWidth, BitVec.getLsbD_allOnes]
  rw [Bool.eq_iff_iff]
  simp only [Bool.and_eq_true, decide_eq_true_eq, Bool.not_eq_true', decide_eq_false_iff_not]
  omega

/-- The four fragments of a bitmap, each taken from what the earlier ones left, are the whole bitmap. -/
theorem fragments_or (r x : VecSet) :
    x ||| r &&& wordMask 0 ||| r &&& ~~~wordMask 0 &&& wordMask 1 |||
        r &&& ~~~wordMask 0 &&& ~~~wordMask 1 &&& wordMask 2 |||
        r &&& ~~~wordMask 0 &&& ~~~wordMask 1 &&& ~~~wordMask 2 &&& wordMask 3 = x ||| r := by
  refine BitVec.eq_of_getLsbD_eq fun n hn => ?_
  have h : n / 64 = 0 ∨ n / 64 = 1 ∨ n / 64 = 2 ∨ n / 64 = 3 := by omega
  simp only [BitVec.getLsbD_or, BitVec.getLsbD_and, BitVec.getLsbD_not, wordMask_bit, hn, decide_true]
  rcases h with h | h | h | h <;> simp [h]

theorem fragments_andNot (r x : VecSet) :
    x &&& ~~~(r &&& wordMask 0) &&& ~~~(r &&& ~~~wordMask 0 &&& wordMask 1) &&&
        ~~~(r &&& ~~~wordMask 0 &&& ~~~wordMask 1 &&& wordMask 2) &&&
        ~~~(r &&& ~~~wordMask 0 &&& ~~~wordMask 1 &&& ~~~wordMask 2 &&& wordMask 3) = x &&& ~~~r := by
  refine BitVec.eq_of_getLsbD_eq fun n hn => ?_
  have h : n / 64 = 0 ∨ n / 64 = 1 ∨ n / 64 = 2 ∨ n / 64 = 3 := by omega
  simp only [BitVec.getLsbD_and, BitVec.getLsbD_not, wordMask_bit, hn, decide_true]
  rcases h with h | h | h | h <;> simp [h]

theorem fragments_gone (r : VecSet) : r &&& ~~~wordMask 0 &&& ~~~wordMask 1 &&& ~~~wordMask 2 &&& ~~~wordMask 3 = 0 := by
  refine BitVec.eq_of_getLsbD_eq fun n hn => ?_
  have h : n / 64 = 0 ∨ n / 64 = 1 ∨ n / 64 = 2 ∨ n / 64 = 3 := by omega
  simp only [BitVec.getLsbD_and, BitVec.getLsbD_not, wordMask_bit, hn, decide_true]
  rcases h with h | h | h | h <;> simp [h]

/-- Some fragment of a bitmap that is not zero is not zero. -/
theorem fragments_nonzero {r : VecSet} (hr : r ≠ 0) :
    ¬ r &&& wordMask 0 = 0 ∨ ¬ r &&& ~~~wordMask 0 &&& wordMask 1 = 0 ∨
      ¬ r &&& ~~~wordMask 0 &&& ~~~wordMask 1 &&& wordMask 2 = 0 ∨
      ¬ r &&& ~~~wordMask 0 &&& ~~~wordMask 1 &&& ~~~wordMask 2 &&& wordMask 3 = 0 := by
  by_contra hc
  simp only [not_or, not_not] at hc
  have h := fragments_or r 0
  rw [hc.1, hc.2.1, hc.2.2.1, hc.2.2.2] at h
  exact hr (by simpa using h.symm)

/-- A unit with both bitmaps drained (R156). -/
def drained (u : ApicUnit) : ApicUnit :=
  { u with
    pibE := ⟨0, false⟩
    pibL := ⟨0, false⟩
    irr := u.irr ||| u.pibE.bits ||| u.pibL.bits
    tmr := (u.tmr &&& ~~~u.pibE.bits) ||| u.pibL.bits }

/-- The ten steps of a fold (R156): both bitmaps drained, INTR rechecked if a bit was drained. -/
theorem runSteps_fold {s : State} {i : Nat} {u : ApicUnit} (h : s.units[i]? = some u) :
    (runSteps (foldSteps i) s ⟨true, false⟩).1 =
      s.setUnit i (if u.pibE.bits = 0 ∧ u.pibL.bits = 0 then drained u else (drained u).signalIfPending) := by
  have hi : i < s.units.length := (List.getElem?_eq_some_iff.mp h).1
  have hs : s.setUnit i u = s := by simp [State.setUnit, set_self h]
  conv_lhs => rw [← hs]
  simp only [foldSteps, runSteps, atomicStep, mapUnit_set _ hi, unitHas_set _ hi, reduceCtorEq, false_and, decide_false,
    Bool.false_and, Bool.false_eq_true, if_false, ApicUnit.clearNotify, ApicUnit.drainWord, ApicUnit.pib, ApicUnit.setPib,
    true_and, show ¬ ((0 : Fin 4) = 3) by decide, show ¬ ((1 : Fin 4) = 3) by decide, show ¬ ((2 : Fin 4) = 3) by decide,
    decide_true, Bool.true_and, fragments_or, fragments_andNot, fragments_gone]
  by_cases hE : u.pibE.bits = 0
  · by_cases hL : u.pibL.bits = 0
    · simp [hE, hL, drained]
    · have hL' : ¬ u.pibL.bits = 0#256 := hL
      rcases fragments_nonzero hL with h | h | h | h <;> simp at h <;> simp [hE, hL', h, drained]
  · have hE' : ¬ u.pibE.bits = 0#256 := hE
    rcases fragments_nonzero hE with h | h | h | h <;> simp at h <;> simp [hE', h, drained]

end Sys2Proof.Machine
end

