-- ==== Sys2Proof/Laws/TagStore.lean ====
section
/-! SUPPORT. The tag store: a read after a write gives the value written, a write leaves every other vector alone, and
every write keeps the canonical form. -/

namespace Sys2Proof.Machine

@[simp] theorem TagStore.read_nil (v : Nat) : TagStore.read [] v = 0 := rfl

@[simp] theorem TagStore.wf_nil : TagStore.wf [] = true := rfl

theorem TagStore.wfFrom_mono {t : TagStore} {a b : Nat} (hab : a ≤ b) (h : TagStore.wfFrom b t = true) :
    TagStore.wfFrom a t = true := by
  cases t with
  | nil => rfl
  | cons e rest =>
    obtain ⟨k, x⟩ := e
    simp only [TagStore.wfFrom, Bool.and_eq_true, decide_eq_true_eq] at h ⊢
    exact ⟨⟨⟨by omega, h.1.1.2⟩, h.1.2⟩, h.2⟩

/-- Below its lower bound a canonical store lists nothing. -/
theorem TagStore.read_below {t : TagStore} {lo v : Nat} (h : TagStore.wfFrom lo t = true) (hv : v < lo) :
    TagStore.read t v = 0 := by
  induction t generalizing lo with
  | nil => rfl
  | cons e rest ih =>
    obtain ⟨k, x⟩ := e
    simp only [TagStore.wfFrom, Bool.and_eq_true, decide_eq_true_eq] at h
    have hk : k ≠ v := by omega
    simp only [TagStore.read, hk, if_false]
    exact ih h.2 (by omega)

theorem TagStore.read_entry_same {v : Nat} {g : Word32} {rest : TagStore} (h : TagStore.read rest v = 0) :
    TagStore.read (TagStore.entry v g rest) v = g := by
  unfold TagStore.entry
  split
  · rename_i hg; rw [h, hg]; rfl
  · simp [TagStore.read]

theorem TagStore.read_entry_other {v w : Nat} {g : Word32} {rest : TagStore} (hvw : v ≠ w) :
    TagStore.read (TagStore.entry v g rest) w = TagStore.read rest w := by
  unfold TagStore.entry
  split
  · rfl
  · simp [TagStore.read, hvw]

/-- A read after a write of the same vector gives the value written. -/
theorem TagStore.read_write_same {t : TagStore} {lo v : Nat} {g : Word32} (h : TagStore.wfFrom lo t = true) :
    TagStore.read (TagStore.write t v g) v = g := by
  induction t generalizing lo with
  | nil => exact TagStore.read_entry_same rfl
  | cons e rest ih =>
    obtain ⟨k, x⟩ := e
    have h' := h
    simp only [TagStore.wfFrom, Bool.and_eq_true, decide_eq_true_eq] at h'
    unfold TagStore.write
    split
    · rename_i hlt
      refine TagStore.read_entry_same ?_
      have hk : k ≠ v := by omega
      simp only [TagStore.read, hk, if_false]
      exact TagStore.read_below h'.2 (by omega)
    · split
      · rename_i hvk
        exact TagStore.read_entry_same (TagStore.read_below h'.2 (by omega))
      · rename_i hne
        have hk : k ≠ v := fun he => hne he.symm
        simp only [TagStore.read, hk, if_false]
        exact ih h'.2

/-- A write leaves every other vector alone. -/
theorem TagStore.read_write_other {t : TagStore} {v w : Nat} {g : Word32} (hvw : v ≠ w) :
    TagStore.read (TagStore.write t v g) w = TagStore.read t w := by
  induction t with
  | nil => exact TagStore.read_entry_other hvw
  | cons e rest ih =>
    obtain ⟨k, x⟩ := e
    unfold TagStore.write
    split
    · exact TagStore.read_entry_other hvw
    · split
      · rename_i hvk
        subst hvk
        rw [TagStore.read_entry_other hvw]
        simp [TagStore.read, hvw]
      · simp only [TagStore.read]
        rw [ih]

theorem TagStore.entry_wfFrom {v lo : Nat} {g : Word32} {rest : TagStore} (hlo : lo ≤ v) (hv : v < 256)
    (h : TagStore.wfFrom (v + 1) rest = true) : TagStore.wfFrom lo (TagStore.entry v g rest) = true := by
  unfold TagStore.entry
  split
  · exact TagStore.wfFrom_mono (by omega) h
  · rename_i hg
    simp only [TagStore.wfFrom, Bool.and_eq_true, decide_eq_true_eq]
    exact ⟨⟨⟨hlo, hv⟩, hg⟩, h⟩

theorem TagStore.write_wfFrom {t : TagStore} {lo v : Nat} {g : Word32} (hlo : lo ≤ v) (hv : v < 256)
    (h : TagStore.wfFrom lo t = true) : TagStore.wfFrom lo (TagStore.write t v g) = true := by
  induction t generalizing lo with
  | nil => exact TagStore.entry_wfFrom hlo hv rfl
  | cons e rest ih =>
    obtain ⟨k, x⟩ := e
    have h' := h
    simp only [TagStore.wfFrom, Bool.and_eq_true, decide_eq_true_eq] at h'
    unfold TagStore.write
    split
    · rename_i hlt
      refine TagStore.entry_wfFrom hlo hv ?_
      simp only [TagStore.wfFrom, Bool.and_eq_true, decide_eq_true_eq]
      exact ⟨⟨⟨by omega, h'.1.1.2⟩, h'.1.2⟩, h'.2⟩
    · split
      · rename_i hvk
        subst hvk
        exact TagStore.entry_wfFrom hlo hv h'.2
      · simp only [TagStore.wfFrom, Bool.and_eq_true, decide_eq_true_eq]
        exact ⟨⟨⟨h'.1.1.1, h'.1.1.2⟩, h'.1.2⟩, ih (by omega) h'.2⟩

/-- Every write keeps the canonical form. -/
theorem TagStore.write_wf {t : TagStore} {v : Nat} {g : Word32} (hv : v < 256) (h : TagStore.wf t = true) :
    TagStore.wf (TagStore.write t v g) = true :=
  TagStore.write_wfFrom (Nat.zero_le v) hv h

/-- Two canonical stores that read the same everywhere are the same store. -/
theorem TagStore.eq_of_read {t t' : TagStore} {lo : Nat} (h : TagStore.wfFrom lo t = true)
    (h' : TagStore.wfFrom lo t' = true) (hr : ∀ v, TagStore.read t v = TagStore.read t' v) : t = t' := by
  induction t generalizing t' lo with
  | nil =>
    cases t' with
    | nil => rfl
    | cons e rest =>
      obtain ⟨k, x⟩ := e
      simp only [TagStore.wfFrom, Bool.and_eq_true, decide_eq_true_eq] at h'
      have := hr k
      simp only [TagStore.read, if_true] at this
      exact absurd this.symm h'.1.2
  | cons e rest ih =>
    obtain ⟨k, x⟩ := e
    simp only [TagStore.wfFrom, Bool.and_eq_true, decide_eq_true_eq] at h
    cases t' with
    | nil =>
      have := hr k
      simp only [TagStore.read, if_true] at this
      exact absurd this h.1.2
    | cons e' rest' =>
      obtain ⟨k', x'⟩ := e'
      simp only [TagStore.wfFrom, Bool.and_eq_true, decide_eq_true_eq] at h'
      have hk : k = k' := by
        rcases Nat.lt_trichotomy k k' with hlt | heq | hgt
        · have := hr k
          have hne : k' ≠ k := by omega
          simp only [TagStore.read, if_true, hne, if_false] at this
          rw [TagStore.read_below h'.2 (by omega)] at this
          exact absurd this h.1.2
        · exact heq
        · have := hr k'
          have hne : k ≠ k' := by omega
          simp only [TagStore.read, if_true, hne, if_false] at this
          rw [TagStore.read_below h.2 (by omega)] at this
          exact absurd this.symm h'.1.2
      subst hk
      have hx : x = x' := by simpa [TagStore.read] using hr k
      subst hx
      congr 1
      refine ih h.2 h'.2 fun v => ?_
      by_cases hv : k = v
      · subst hv
        rw [TagStore.read_below h.2 (by omega), TagStore.read_below h'.2 (by omega)]
      · simpa [TagStore.read, hv] using hr v

end Sys2Proof.Machine
end

