-- ==== Sys2Proof/Tests/Slice0.lean ====
section
/-! SUPPORT. The model's own tests. Expected results come from spec/95_test_vectors.md, whose vector is named in each
test's comment, or from the rule named there. The witnesses at the end meet the hypotheses of the statements in
Certificates/Slice0/Obligations.lean, clause by clause, at boundary values. -/

namespace Sys2Proof.Tests

open Sys2Proof Sys2Proof.Machine

-- One theorem after another: many kernel evaluations that wait for the files before them cost a thread each.
set_option Elab.async false

/-! ## Well-formedness -/

/-- R81: the `unit` field has eight bits. -/
theorem test_wellFormed_largest_unit : WellFormed (.reset 255) = true := by decide

theorem test_wellFormed_refuses_unit_256 : WellFormed (.reset 256) = false := by decide

/-- R209: `BUS_DELIVER` has no unit to refuse. -/
theorem test_wellFormed_busDeliver :
    WellFormed (.busDeliver 0 .fixed .physical .edge false 0 0 false) = true := by decide

/-! ## Decoding: a word written out for every command -/

/-- V70.1. -/
theorem test_decode_reset : decode 0x01020000000000000000000000000000#128 = .ok (.reset 2) := rfl
/-- V70.4. -/
theorem test_decode_init : decode 0x02030000000000000000000000000000#128 = .ok (.init 3) := rfl
/-- V44.W20. -/
theorem test_decode_readReg : decode 0x10000000000000240000000000000000#128 = .ok (.readReg 0 0x024) := rfl
/-- V43.I8. -/
theorem test_decode_writeReg :
    decode 0x11000002000003000000000000004500#128 = .ok (.writeReg 0 0x300 0x4500 true) := rfl
/-- P7 step 2. -/
theorem test_decode_readMsr : decode 0x12030000000008020000000000000000#128 = .ok (.readMsr 3 0x802) := rfl
/-- P7 step 12. -/
theorem test_decode_writeMsr :
    decode 0x13030002000008300000000100004500#128 = .ok (.writeMsr 3 0x830 0x100004500 true) := rfl
/-- V44.B14. -/
theorem test_decode_getBase : decode 0x14000000000000000000000000000000#128 = .ok (.getBase 0) := rfl
/-- P7 step 1. -/
theorem test_decode_setBase : decode 0x150300000000000000000000FEE00C00#128 = .ok (.setBase 3 0xFEE00C00) := rfl
/-- V40.P1 to P10. -/
theorem test_decode_updatePpr : decode 0x20000000000000000000000000000000#128 = .ok (.updatePpr 0) := rfl
/-- V40.S1 to S9. -/
theorem test_decode_signalIfPending : decode 0x21000000000000000000000000000000#128 = .ok (.signalIfPending 0) := rfl
/-- V40.G1 to G12. -/
theorem test_decode_getNext : decode 0x22020000000000000000000000000000#128 = .ok (.getNext 2) := rfl
/-- V40.E1 to E7. -/
theorem test_decode_eoi : decode 0x23000000000000000000000000000000#128 = .ok (.eoi 0 0) := rfl
/-- V40.Q1. -/
theorem test_decode_queueToService : decode 0x24004100000000000000000000000000#128 = .ok (.queueToService 0 0x41) := rfl
/-- V40.Q2. -/
theorem test_decode_dequeueFromService :
    decode 0x25004100000000000000000000000000#128 = .ok (.dequeueFromService 0 0x41) := rfl
/-- V41.8. -/
theorem test_decode_post : decode 0x30018008000000080000000000000000#128 = .ok (.post 1 0x80 .level 0x8) := rfl
/-- V41.F1. -/
theorem test_decode_fold : decode 0x31010000000000000000000000000000#128 = .ok (.fold 1) := rfl
/-- V42.1. -/
theorem test_decode_setInitialCount : decode 0x40000000000000000000000000000032#128 = .ok (.setInitialCount 0 50) := rfl
/-- V42.2. -/
theorem test_decode_getCurrentCount : decode 0x41000000000000000000000000000000#128 = .ok (.getCurrentCount 0) := rfl
/-- V42.7. -/
theorem test_decode_timerExpire : decode 0x42000000000000000000000000000000#128 = .ok (.timerExpire 0) := rfl
/-- V42.14. -/
theorem test_decode_stopTimer : decode 0x43000000000000000000000000000000#128 = .ok (.stopTimer 0) := rfl
/-- V43.I20. -/
theorem test_decode_sendIpiFromIcr : decode 0x52000002000000000000000000000000#128 = .ok (.sendIpiFromIcr 0 true) := rfl
/-- V43.B4. -/
theorem test_decode_busDeliver : decode 0x530000A2000000000000000000000001#128 =
    .ok (.busDeliver 0 .init .physical .edge false 0 1 true) := rfl
/-- V43.L5. -/
theorem test_decode_localInterrupt : decode 0x54000004000000000000000000000001#128 =
    .ok (.localInterrupt 0 .lint1 true false) := rfl
/-- V44.W24. -/
theorem test_decode_illegal : decode 0x99000000000000000000000000000000#128 = .error (.illegalOpcode 0x99) := rfl

/-- log 23: the table's word is the command word. -/
theorem test_decodeTableWord : decodeTableWord 128 0x42000000000000000000000000000000 = some (.timerExpire 0) := rfl

/-! ## One step of each command -/

/-- `State.reset` with unit 1 changed. -/
def base1 (f : ApicUnit → ApicUnit) : State := { State.reset with units := State.reset.units.modify 1 f }

/-- Unit 1 of `base1 f`. -/
def unit1 (f : ApicUnit → ApicUnit) : ApicUnit := f (ApicUnit.afterReset standardConfig 1)

/-- The set of some vectors. -/
def vecs (l : List Nat) : VecSet := l.foldl (fun r v => setVec r (BitVec.ofNat 8 v)) 0

/-- A software-enabled unit with vectors pending and in service. -/
def serving (irr isr : List Nat) (tpr ppr : Word32) (u : ApicUnit) : ApicUnit :=
  { u with svr := 0x1FF, irr := vecs irr, isr := vecs isr, tpr := tpr, ppr := ppr }

/-- A unit in x2APIC mode. -/
def inX2 (i : Nat) (u : ApicUnit) : ApicUnit := { u with base := 0xFEE00C00, id := x2apicId i, ldr := x2apicLdr i }

/-- A unit whose timer was armed at 1000 with count 50 and shift 0, and an LVT entry. -/
def armed (lvt : Word32) (u : ApicUnit) : ApicUnit :=
  { u with
    lvtTimer := lvt, timerDcr := 0xB, timerIcr := 50, timArmed := true, timArmAt := 1000, timDeadline := 1050 }

/-- The response, and a part of a unit, after one step that takes this command from an agent that may issue it. -/
def look {α : Type} (c : Instr) (s : State) (i : Nat) (part : ApicUnit → α) : Option (PortWord × Option α) :=
  match step (s.withFetchWord 128 (encode c).toNat) with
  | .next t => some (t.rsp, t.units[i]?.map part)
  | .fault _ => none
  | .refused _ => none

/-- Whether that step answers `rsp` and leaves unit i as `check` says. -/
def leaves (c : Instr) (s : State) (i : Nat) (rsp : PortWord) (check : ApicUnit → Bool) : Bool :=
  match step (s.withFetchWord 128 (encode c).toNat) with
  | .next t => decide (t.rsp = rsp) && t.units[i]?.any check
  | .fault _ => false
  | .refused _ => false

/-- The response and the events after one step. -/
def events (c : Instr) (s : State) : Option (PortWord × List Event) :=
  match step (s.withFetchWord 128 (encode c).toNat) with
  | .next t => some (t.rsp, t.out)
  | .fault _ => none
  | .refused _ => none

/-- V70.1. -/
theorem test_reset : leaves (.reset 2) State.reset 2 0 (fun u =>
      u.base == 0xFEE00800 && u.id == 0x02000000 && u.svr == 0xFF && u.dfr == 0xFFFFFFFF) = true := by decide +kernel

/-- V70.4, on unit 1. -/
theorem test_init_x2apic :
    leaves (.init 1) (base1 fun u => { inX2 1 u with tpr := 0x40, nmi := true, timArmed := true }) 1 0 (fun u =>
      u.base == 0xFEE00C00 && u.id == 1 && u.ldr == 2 && u.tpr == 0 && u.nmi == true && u.timArmed == false) = true := by
  decide +kernel

/-- V70.5. -/
theorem test_init_xapic :
    leaves (.init 1) (base1 fun u => { u with ldr := 0x02000000, pibE := ⟨vecs [0x41], true⟩ }) 1 0 (fun u =>
      u.id == 0x01000000 && u.ldr == 0 && u.pibE == ⟨0, false⟩) = true := by decide +kernel

/-- V44.W16. -/
theorem test_readReg_undefined : look (.readReg 1 0x040) State.reset 1 ApicUnit.esr = some (0, some 0x80) := by
  decide +kernel

/-- V41.F1, its page view. -/
theorem test_readReg_fragment : (look (.readReg 1 0x220) (base1 (serving [0x41, 0x52] [] 0 0)) 1 ApicUnit.esr).map
    Prod.fst = some 0x00040002 := by decide +kernel

/-- V44.W1. -/
theorem test_writeReg_tpr : leaves (.writeReg 1 0x080 0x12345640 false) State.reset 1 0 (fun u =>
      u.tpr == 0x40 && u.ppr == 0x40) = true := by decide +kernel

/-- V44.W12. -/
theorem test_writeReg_svr :
    leaves (.writeReg 1 0x0F0 0x0FF false)
      (base1 fun u => { u with svr := 0x1FF, lvtTimer := 0x20050, lvtLint0 := 0x700 }) 1 0
      (fun u =>
      u.svr == 0xFF && u.lvtTimer == 0x30050 && u.lvtLint0 == 0x10700 && u.lvtError == 0x10000) = true := by
  decide +kernel

/-- V44.M17, on unit 1, and V44.M9. -/
theorem test_readMsr : (look (.readMsr 1 0x80D) (base1 (inX2 1)) 1 ApicUnit.esr).map Prod.fst = some 2 ∧
    (look (.readMsr 1 0x80B) (base1 (inX2 1)) 1 ApicUnit.esr).map Prod.fst =
      some 0x15000000000000000000000000000000 := by decide +kernel

/-- V44.M14. -/
theorem test_writeMsr_upper_half : look (.writeMsr 1 0x808 0x100000040 false) (base1 (inX2 1)) 1 ApicUnit.tpr =
    some (0x17000000000000000000000000000000, some 0) := by decide +kernel

/-- V44.M19: the posted vector in unit 2, and the stored ICR. -/
theorem test_writeMsr_icr :
    look (.writeMsr 1 0x830 0x200000041 false) (base1 (inX2 1)) 2 (fun u => u.pibE) =
      some (0, some ⟨vecs [0x41], true⟩) ∧
    leaves (.writeMsr 1 0x830 0x200000041 false) (base1 (inX2 1)) 1 0 (fun u =>
      u.icrHi == 2 && u.icrLo == 0x41) = true := by decide +kernel

/-- V44.B14. -/
theorem test_getBase : (look (.getBase 0) State.reset 0 ApicUnit.base).map Prod.fst = some 0xFEE00900 := by
  decide +kernel

/-- V44.B10. -/
theorem test_setBase_x2apic : leaves (.setBase 0 0xFEE00D00) State.reset 0 0 (fun u =>
      u.base == 0xFEE00D00 && u.id == 0 && u.ldr == 1) = true := by decide +kernel

/-- V44.B2. -/
theorem test_setBase_relocation : look (.setBase 0 0xFEE01900) State.reset 0 ApicUnit.base =
    some (0x1B000000000000000000000000000000, some 0xFEE00900) := by decide +kernel

/-- V40.P3. -/
theorem test_updatePpr :
    look (.updatePpr 1) (base1 (serving [] [0x52] 0x35 0)) 1 ApicUnit.ppr = some (0, some 0x50) := by
  decide +kernel

/-- V40.P6. -/
theorem test_updatePpr_equal_class : look (.updatePpr 1) (base1 (serving [] [0x52] 0x5A 0)) 1 ApicUnit.ppr =
    some (0, some 0x5A) := by decide +kernel

/-- V40.S2 and V40.S3. -/
theorem test_signalIfPending :
    look (.signalIfPending 1) (base1 fun u => { serving [0x45] [0x41] 0 0 u with intr := true }) 1 ApicUnit.intr =
      some (0, some false) ∧
    look (.signalIfPending 1) (base1 (serving [0x50] [0x4F] 0 0)) 1 ApicUnit.intr = some (0, some true) := by
  decide +kernel

/-- V40.G8. -/
theorem test_getNext_nesting :
    leaves (.getNext 1) (base1 fun u => { serving [0x55, 0x61] [0x52] 0 0x50 u with tag := [(0x61, 2)] }) 1
      0x00610000000000020000000000000000
      (fun u =>
      u.irr == vecs [0x55] && u.isr == vecs [0x52, 0x61] && u.ppr == 0x60 && u.tag == []) = true := by decide +kernel

/-- V40.G9: masked by TPR is tested before the class in service. -/
theorem test_getNext_masked : look (.getNext 1) (base1 (serving [0x61] [0x52] 0x60 0x60)) 1 ApicUnit.irr =
    some (0x02610000000000000000000000000000, some (vecs [0x61])) := by decide +kernel

/-- V40.E4. -/
theorem test_eoi_level :
    leaves (.eoi 1 0) (base1 fun u => { serving [0x71] [0x61] 0 0x60 u with tmr := vecs [0x61], lvtLint0 := 0xC061 }) 1 0
      (fun u =>
      u.isr == 0 && u.tmr == 0 && u.ppr == 0 && u.intr == true && u.lvtLint0 == 0x8061) = true := by decide +kernel

/-- V40.E7: the highest vector ends, which is edge-triggered: no event. -/
theorem test_eoi_highest :
    events (.eoi 1 0) (base1 fun u => { serving [] [0x41, 0x52] 0 0x50 u with tmr := vecs [0x41] }) = some (0, []) := by
  decide +kernel

/-- V40.Q1. -/
theorem test_queueToService :
    leaves (.queueToService 1 0x41) (base1 fun u => { serving [0x41] [] 0 0 u with intr := true }) 1 0 (fun u =>
      u.irr == 0 && u.isr == vecs [0x41] && u.ppr == 0x40 && u.intr == true) = true := by decide +kernel

/-- V40.Q2. -/
theorem test_dequeueFromService :
    leaves (.dequeueFromService 1 0x41) (base1 fun u => { serving [] [0x41] 0 0x40 u with intr := true }) 1 0
      (fun u =>
      u.irr == vecs [0x41] && u.isr == 0 && u.ppr == 0 && u.intr == true) = true := by decide +kernel

/-- V41.1. -/
theorem test_post_illegal_vector : leaves (.post 1 0x0F .edge 1) State.reset 1 0x03000000000000000000000000000000
      (fun u =>
      u.esr == 0x40 && u.pibE == ⟨0, false⟩ && u.tag == []) = true := by decide +kernel

/-- V41.6: a second post before any fold ORs the tag and wakes nobody. -/
theorem test_post_again :
    events (.post 1 0x41 .edge 4) (base1 fun u => { u with pibE := ⟨vecs [0x41], true⟩, tag := [(0x41, 1)] }) =
      some (0, []) ∧
    look (.post 1 0x41 .edge 4) (base1 fun u => { u with pibE := ⟨vecs [0x41], true⟩, tag := [(0x41, 1)] }) 1
      (fun u => u.tag) = some (0, some [(0x41, 5)]) := by decide +kernel

/-- V41.F1. -/
theorem test_fold :
    leaves (.fold 1)
      (base1 fun u => { u with svr := 0x1FF, pibE := ⟨vecs [0x41], true⟩, pibL := ⟨vecs [0x52], true⟩ }) 1 0 (fun u =>
      u.irr == vecs [0x41, 0x52] && u.tmr == vecs [0x52] && u.pibE == ⟨0, false⟩ && u.pibL == ⟨0, false⟩ &&
      u.intr == true) = true := by
  decide +kernel

/-- V41.F4: the level pass is the second one. -/
theorem test_fold_level_wins :
    leaves (.fold 1) (base1 fun u => { u with pibE := ⟨vecs [0x61], true⟩, pibL := ⟨vecs [0x61], true⟩ }) 1 0
      (fun u =>
      u.irr == vecs [0x61] && u.tmr == vecs [0x61]) = true := by decide +kernel

/-- V42.4. -/
theorem test_setInitialCount :
    leaves (.setInitialCount 1 3) { base1 (fun u => { u with timerDcr := 0xA }) with vt := 1000 } 1 0 (fun u =>
      u.timerIcr == 3 && u.timShift == 7 && u.timArmAt == 1000 && u.timDeadline == 1384 &&
      u.timArmed == true) = true := by
  decide +kernel

/-- V42.2 at 1020 and at the deadline. -/
theorem test_getCurrentCount :
    (look (.getCurrentCount 1) { base1 (armed 0x50) with vt := 1020 } 1 ApicUnit.timArmed).map Prod.fst = some 30 ∧
    (look (.getCurrentCount 1) { base1 (armed 0x50) with vt := 1050 } 1 ApicUnit.timArmed).map Prod.fst = some 0 := by
  decide +kernel

/-- V42.8. -/
theorem test_timerExpire_periodic :
    leaves (.timerExpire 1) { base1 (armed 0x20050) with vt := 1053 } 1 0 (fun u =>
      u.timArmAt == 1053 && u.timDeadline == 1103 && u.timArmed == true &&
      u.pibE == ⟨vecs [0x50], true⟩ && u.tag == [(0x50, 2)]) = true := by
  decide +kernel

/-- V42.15. -/
theorem test_timerExpire_not_due :
    leaves (.timerExpire 1) { base1 (armed 0x50) with vt := 1049 } 1 0 (fun u =>
      u.timArmed == true && u.pibE == ⟨0, false⟩) = true := by decide +kernel

/-- V42.14. -/
theorem test_stopTimer :
    leaves (.stopTimer 1) { base1 (armed 0x50) with vt := 1010 } 1 0 (fun u =>
      u.timArmed == false && u.timerIcr == 50) = true := by decide +kernel

/-- V43.I11: unit 2 records the refused post. -/
theorem test_sendIpiFromIcr_illegal_vector :
    look (.sendIpiFromIcr 1 false) (base1 fun u => { u with icrHi := 0x02000000, icrLo := 0x8 }) 2 ApicUnit.esr =
      some (0, some 0x40) ∧
    look (.sendIpiFromIcr 1 false) (base1 fun u => { u with icrHi := 0x02000000, icrLo := 0x8 }) 1 ApicUnit.esr =
      some (0, some 0x20) := by decide +kernel

/-- V43.I1, sent by unit 1. -/
theorem test_sendIpiFromIcr_all_but_self :
    events (.sendIpiFromIcr 1 false) (base1 fun u => { u with icrLo := 0x000C0030 }) =
    some (0, [.wake 0, .wake 2, .wake 3]) := by decide +kernel

/-- V43.B4. -/
theorem test_busDeliver_init :
    events (.busDeliver 0 .init .physical .edge false 0 1 true) State.reset = some (0, [.cpuInit 1]) := by decide +kernel

/-- V43.B6, on unit 1: no sender, so no send-error flag. -/
theorem test_busDeliver_illegal_vector :
    look (.busDeliver 0x0F .fixed .logical .edge false 8 2 false) (base1 fun u => { u with ldr := 0x02000000 }) 1
      ApicUnit.esr = some (0x03000000000000000000000000000000, some 0x40) := by decide +kernel

/-- V43.L2. -/
theorem test_localInterrupt_latches :
    leaves (.localInterrupt 1 .lint0 true false) (base1 fun u => { u with lvtLint0 := 0x8041 }) 1 0 (fun u =>
      u.pibL == ⟨vecs [0x41], true⟩ && u.tag == [(0x41, 4)] && u.lvtLint0 == 0xC041) = true := by decide +kernel

/-- V43.L6: pin 1 never latches. -/
theorem test_localInterrupt_lint1 :
    leaves (.localInterrupt 1 .lint1 true false) (base1 fun u => { u with lvtLint1 := 0x8041 }) 1 0 (fun u =>
      u.pibL == ⟨vecs [0x41], true⟩ && u.lvtLint1 == 0x8041) = true := by decide +kernel

/-! ## Witnesses of the statements' hypotheses -/

/-- R36, R314: a send uses the enable bit its first step has read, whatever has become of BASE. -/
theorem test_enable_bit_seen :
    (atomicStep (.enableCheck 1 (some true)) (base1 fun u => { u with base := 0 }) ⟨false, false⟩).2.live = true ∧
    (atomicStep (.enableCheck 1 none) (base1 fun u => { u with base := 0 }) ⟨true, false⟩).2.live = false := by
  decide +kernel

/-- R205, R191 to R194, R63: the first step of a send from the ICR of unit 1 reads its own BASE, and every unit's when it
matches a logical destination that is not a broadcast. -/
theorem test_base_reads :
    (State.reset.icrReads 1 { unit1 id with icrLo := 0x0841, icrHi := 0x01000000 }) = [1, 0, 1, 2, 3] ∧
    (State.reset.icrReads 1 { unit1 id with icrLo := 0x0841, icrHi := 0xFF000000 }) = [1] ∧
    (State.reset.icrReads 1 { unit1 id with icrLo := 0x0041, icrHi := 0x02000000 }) = [1] ∧
    (State.reset.icrReads 1 { unit1 id with icrLo := 0xC0041 }) = [1] := by decide +kernel

/-- Whether an outcome is a next state that `part` accepts. -/
def answersWith (o : Host.Outcome State Fault Refusal) (part : State → Bool) : Bool :=
  match o with
  | .next t => part t
  | .fault _ => false
  | .refused _ => false

theorem exists_next {o : Host.Outcome State Fault Refusal} {part : State → Bool} (h : answersWith o part = true) :
    ∃ t, o = .next t ∧ part t = true := by
  cases o with
  | next t => exact ⟨t, rfl, h⟩
  | fault r => cases r
  | refused r => cases h

/-- A script of one input, with an outstanding command of another agent. -/
def scripted (inp : Input) : State :=
  { State.reset with
    inputs := [inp], inFlight := [{ agent := .poster 7, progress := ⟨true, false⟩, todo := [.enableCheck 0 none],
                                     finish := .accepted }] }

theorem witness_DecodeOfEncode : WellFormed (.localInterrupt 255 .lint1 true true) = true := by decide

theorem witness_DecoderTotalAndBlind :
    (0x54FFFFFFFFFFFFFFFFFFFFFFFFFFFFFF#128).extractLsb' 120 8 ∈ opcodes ∧
    (0x55000000000000000000000000000000#128).extractLsb' 120 8 ∉ opcodes ∧
    0x31010000000000000000000000000000#128 &&& usedBits 0x31 =
      0x3101FFFFFFFFFFFFFFFFFFFFFFFFFFFF#128 &&& usedBits 0x31 := by decide

theorem witness_IllegalOpcodeAnswered :
    (scripted (.start (.owner 0) 0xFF000000000000000000000000000000)).inputs =
      .start (.owner 0) 0xFF000000000000000000000000000000 :: [] ∧
    (∀ c ∈ (scripted (.start (.owner 0) 0xFF000000000000000000000000000000)).inFlight, c.agent ≠ .owner 0) ∧
    (0xFF000000000000000000000000000000#128).extractLsb' 120 8 ∉ opcodes := by decide

theorem witness_StepRunsDecodedCommand :
    (scripted (.issue (.owner 3) 0x31030000000000000000000000000000)).inputs =
      .issue (.owner 3) 0x31030000000000000000000000000000 :: [] ∧
    (∀ c ∈ (scripted (.issue (.owner 3) 0x31030000000000000000000000000000)).inFlight, c.agent ≠ .owner 3) ∧
    decode 0x31030000000000000000000000000000 = .ok (.fold 3) ∧ mayIssue (.owner 3) (.fold 3) = true ∧
    WellFormed (.fold 255) = true := by decide +kernel

theorem witness_InputsTakenOrRefused :
    ((scripted (.issue (.owner 0) 0x31030000000000000000000000000000)).inputs =
      .issue (.owner 0) 0x31030000000000000000000000000000 :: [] ∧
    (∀ c ∈ (scripted (.issue (.owner 0) 0x31030000000000000000000000000000)).inFlight, c.agent ≠ .owner 0) ∧
    decode 0x31030000000000000000000000000000 = .ok (.fold 3) ∧ mayIssue (.owner 0) (.fold 3) = false) ∧
    (scripted (.start (.poster 7) 0)).inputs = .start (.poster 7) 0 :: [] ∧
    ∃ d ∈ (scripted (.start (.poster 7) 0)).inFlight, d.agent = .poster 7 := by decide +kernel

/-- VT at the bound of R170 and one above it, from 1000; a unit that exists and one that does not. -/
theorem witness_InputsTakenOrRefused_environment :
    (∀ d ∈ (scripted (.advance (.poster 6))).inFlight, d.agent ≠ .poster 6) ∧
    (1000 : Word64).toNat ≤ (0xFFFFFF0000000000 : Word64).toNat ∧
    (0xFFFFFF0000000000 : Word64).toNat ≤ 2 ^ 64 - 2 ^ 40 ∧ 2 ^ 64 - 2 ^ 40 < (0xFFFFFF0000000001 : Word64).toNat ∧
    (999 : Word64).toNat < (1000 : Word64).toNat ∧
    (scripted (.takeNmi 3)).units[3]? = some (ApicUnit.afterReset standardConfig 3) ∧
    (scripted (.takeSmi 4)).units.length ≤ 4 ∧ State.reset.inputs = [] := by decide +kernel

theorem witness_ResponseFields : (∀ k, Instr.fold 0 ≠ .getNext k) ∧ (∀ k off, Instr.fold 0 ≠ .readReg k off) ∧
    (∀ k idx, Instr.fold 0 ≠ .readMsr k idx) ∧ (∀ k, Instr.fold 0 ≠ .getBase k) ∧
    ∀ k, Instr.fold 0 ≠ .getCurrentCount k := by
  refine ⟨?_, ?_, ?_, ?_, ?_⟩ <;> intros <;> nofun

theorem witness_ResetResult : 0 < State.reset.units.length ∧ 3 < State.reset.units.length := by decide

theorem witness_InitResult :
    State.reset.units[0]? = some (ApicUnit.afterReset standardConfig 0) ∧
    ((base1 (inX2 1)).units[1]? = some (unit1 (inX2 1)) ∧ (unit1 (inX2 1)).base.getLsbD 11 = true ∧
      (unit1 (inX2 1)).base.getLsbD 10 = true) := by decide +kernel

theorem witness_ResetState : 3 < State.reset.units.length := by decide

theorem witness_PageReadsAfterWrite :
    standardConfig.regMap = standardRegMap ∧ (0x270, 0) ∈ pageRows (unit1 id) 0 ∧ 0x270 ≠ 0x390 ∧ 0x380 ≠ 0x270 ∧
    0x3F0 ∈ undefinedOffsets ∧ 4080 % 16 = 0 ∧ 4080 < 4096 ∧ 4 ≤ 0x3F4 % 16 ∧ 4096 ≤ 4096 := by decide +kernel

theorem witness_ReadRegAnswers :
    MmioReaches State.reset 3 (ApicUnit.afterReset standardConfig 3) ∧
    (0x020, 0x03000000) ∈ pageRows (ApicUnit.afterReset standardConfig 3) 0 ∧
    (0x3E0, 0) ∈ pageRows (ApicUnit.afterReset standardConfig 3) 0 := by decide +kernel

theorem witness_UndefinedOffset :
    (MmioReaches State.reset 3 (ApicUnit.afterReset standardConfig 3) ∧ (0x3F0 : Word32).toNat ∈ undefinedOffsets ∧
      (0x000 : Word32).toNat ∈ undefinedOffsets) ∧
    ∃ t, exec (.readMsr 1 0x83F) (base1 fun u => { inX2 1 u with esr := 0x80 }) = .next t ∧
      t.units[1]?.any (fun u => u.esr.getLsbD 7) = true :=
  ⟨by decide +kernel, exists_next (by decide +kernel)⟩

theorem witness_PortTurnsAway :
    ((base1 (inX2 1)).units[1]? = some (unit1 (inX2 1)) ∧ (0x3F0 : Word32).toNat % 16 = 0 ∧
      (0x3F0 : Word32).toNat ≤ 0x3F0 ∧ (unit1 (inX2 1)).mode ≠ .xapic) ∧
    ((0x024 : Word32).toNat % 16 ≠ 0 ∧ 0x3F0 < (0x400 : Word32).toNat) ∧
    ((Instr.fold 4).unit? = some 4 ∧ State.reset.units.length ≤ 4) ∧
    (MmioReaches State.reset 3 (ApicUnit.afterReset standardConfig 3) ∧
      (0x390 : Word32).toNat ∈ [0x020, 0x030, 0x090, 0x0A0, 0x390] ∧
      0x100 ≤ (0x270 : Word32).toNat ∧ (0x270 : Word32).toNat ≤ 0x270 ∧ (0x270 : Word32).toNat % 16 = 0) := by
  decide +kernel

/-- The MMIO port reaches a unit, the MSR port another. -/
theorem witness_ports : MmioReaches State.reset 3 (ApicUnit.afterReset standardConfig 3) ∧
    MsrReaches (base1 (inX2 1)) 1 (unit1 (inX2 1)) := by decide +kernel

theorem witness_WriteTpr : MmioReaches State.reset 3 (ApicUnit.afterReset standardConfig 3) ∧
    MsrReaches (base1 (inX2 1)) 1 (unit1 (inX2 1)) ∧ (0xFF : Word32) &&& 0xFF#32 = 0xFF := by decide +kernel

theorem witness_WriteRunsCommand : MmioReaches State.reset 3 (ApicUnit.afterReset standardConfig 3) ∧
    MsrReaches (base1 (inX2 1)) 1 (unit1 (inX2 1)) := witness_ports

theorem witness_WriteSvr : MmioReaches State.reset 3 (ApicUnit.afterReset standardConfig 3) ∧
    MsrReaches (base1 (inX2 1)) 1 (unit1 (inX2 1)) ∧ (0x1FF : Word32) &&& 0x1FF#32 = 0x1FF := by decide +kernel

theorem witness_WriteStores : MmioReaches State.reset 3 (ApicUnit.afterReset standardConfig 3) ∧
    MsrReaches (base1 (inX2 1)) 1 (unit1 (inX2 1)) ∧ (0xB : Word32) &&& 0xB#32 = 0xB := by decide +kernel

theorem witness_WriteLvt : (0x320, Lvt.timer, 0x700FF) ∈ lvtRows true ∧ (0x370, Lvt.error, 0x100FF) ∈ lvtRows true ∧
    MmioReaches State.reset 3 (ApicUnit.afterReset standardConfig 3) ∧
    MsrReaches (base1 (inX2 1)) 1 (unit1 (inX2 1)) ∧ (0x700FF : Word32) &&& 0x700FF#32 = 0x700FF := by decide +kernel

theorem witness_WriteIcrSends : MmioReaches State.reset 3 (ApicUnit.afterReset standardConfig 3) ∧
    MsrReaches (base1 (inX2 1)) 1 (unit1 (inX2 1)) ∧
    (0xFFFFFFFF000CCFFF : Word64) &&& 0xFFFFFFFF000CCFFF#64 = 0xFFFFFFFF000CCFFF ∧
    ((0xFFFFFFFF000CCFFF : Word64).extractLsb' 8 3, (0xFFFFFFFF000CCFFF : Word64).extractLsb' 18 2) ∉
      (base1 (inX2 1)).cfg.icrComboIllegal := by decide +kernel

theorem witness_ReadMsrAnswers : MsrReaches (base1 (inX2 1)) 1 (unit1 (inX2 1)) ∧
    (0x3E0, 0) ∈ pageRows (unit1 (inX2 1)) 0 ∧ 0x3E0 ∉ [0x090, 0x0E0, 0x300, 0x310] := by decide +kernel

/-- A machine whose platform disallows x2APIC mode. -/
def noX2 : State := { base1 (inX2 1) with cfg := { standardConfig with maxMode := .xapic } }

theorem witness_ReadMsrFaults :
    (noX2.units[1]? = some (unit1 (inX2 1)) ∧ StandardTables noX2.cfg ∧ noX2.cfg.maxMode ≠ .x2apic) ∧
    (State.reset.units[1]? = some (unit1 id) ∧ StandardTables State.reset.cfg ∧ State.reset.cfg.maxMode = .x2apic ∧
      (unit1 id).mode ≠ .x2apic) ∧
    ((base1 (inX2 1)).units[1]? = some (unit1 (inX2 1)) ∧ (unit1 (inX2 1)).mode = .x2apic ∧ MsrUnknown 0x7FF ∧
      MsrUnknown 0x840 ∧ MsrUnknown 0x83F ∧ MsrUnknown 0x831 ∧ ¬ MsrUnknown 0x80B) := by decide +kernel

theorem witness_WriteMsrFaults :
    (noX2.units[1]? = some (unit1 (inX2 1)) ∧ StandardTables noX2.cfg ∧ noX2.cfg.maxMode ≠ .x2apic) ∧
    (State.reset.units[1]? = some (unit1 id) ∧ State.reset.cfg.maxMode = .x2apic ∧ (unit1 id).mode ≠ .x2apic) ∧
    ((base1 (inX2 1)).units[1]? = some (unit1 (inX2 1)) ∧ (unit1 (inX2 1)).mode = .x2apic ∧ MsrUnknown 0x83F ∧
      (((0x839 : Word32).toNat - 0x800) * 16 ∈ msrReadOnlyOffsets ∧ ¬ MsrUnknown 0x839) ∧
      ((0x3E0, 0xB) ∈ msrWriteMasks true ∧ (0x83E : Word32).toNat = 0x800 + 0x3E0 / 16 ∧
        (0x4 : Word64) &&& ~~~0xB#64 ≠ 0)) := by decide +kernel

/-- V44.M18: a forbidden pair of delivery mode and shorthand. -/
theorem witness_WriteMsrFaults_combination :
    let s : State := { base1 (inX2 1) with cfg := { standardConfig with icrComboIllegal := [(1, 2)] } }
    s.units[1]? = some (unit1 (inX2 1)) ∧ StandardTables s.cfg ∧ s.cfg.maxMode = .x2apic ∧
    (0x80141 : Word64) &&& 0xFFFFFFFF000CCFFF#64 = 0x80141 ∧
    ((0x80141 : Word64).extractLsb' 8 3, (0x80141 : Word64).extractLsb' 18 2) ∈ s.cfg.icrComboIllegal := by decide +kernel

theorem witness_GetBaseAnswers : State.reset.units[3]? = some (ApicUnit.afterReset standardConfig 3) := by decide +kernel

/-- A unit with a given base value. -/
def withBase (b : Word64) (u : ApicUnit) : ApicUnit := { u with base := b }

theorem witness_SetBaseAccepts :
    ([0xFEE00900#64, 0xFEE00D00, 0xFEE00100].all fun x => decide (x &&& ~~~0x0000000FFFFFFD00#64 = 0 ∧
      x.extractLsb' 12 24 = standardConfig.apicBaseAddr.extractLsb' 12 24)) = true ∧
    ([0xFEE00000#64, 0xFEE00800, 0xFEE00C00].all fun b =>
      decide ((base1 (withBase b)).units[1]? = some (unit1 (withBase b)))) = true ∧
    (unit1 (withBase 0xFEE00000)).mode = .disabled ∧ (unit1 (withBase 0xFEE00800)).mode = .xapic ∧
    (unit1 (withBase 0xFEE00C00)).mode = .x2apic ∧ modeOf 0xFEE00900 = .xapic ∧ modeOf 0xFEE00D00 = .x2apic ∧
    modeOf 0xFEE00100 = .disabled ∧ State.reset.cfg.maxMode = .x2apic := by decide +kernel

theorem witness_SetBaseRejects :
    State.reset.units[1]? = some (unit1 id) ∧ (0x10FEE00900 : Word64) &&& ~~~0x0000000FFFFFFD00#64 ≠ 0 ∧
    (0xFEE01900 : Word64).extractLsb' 12 24 ≠ State.reset.cfg.apicBaseAddr.extractLsb' 12 24 ∧
    modeOf 0xFEE00400 = .invalid ∧
    ((unit1 (withBase 0xFEE00000)).mode = .disabled ∧ modeOf 0xFEE00C00 = .x2apic) ∧
    ((unit1 (inX2 1)).mode = .x2apic ∧ modeOf 0xFEE00800 = .xapic) ∧
    (noX2.cfg.maxMode = .xapic ∧ modeOf 0xFEE00C00 = .x2apic) := by decide +kernel

/-- The vectors 0x10 and 0xFF are the lowest and the highest of a set of two. -/
theorem witness_UpdatePprResult :
    (base1 (serving [] [0x10, 0xFF] 0 0)).units[1]? = some (unit1 (serving [] [0x10, 0xFF] 0 0)) ∧
    hasVec (vecs [0x10, 0xFF]) 0xFF = true ∧ (∀ w : Vec, hasVec (vecs [0x10, 0xFF]) w = true → w.toNat ≤ (0xFF : Vec).toNat) ∧
    (unit1 id).isr = 0 := by decide +kernel

theorem witness_SignalIfPendingResult :
    (base1 (serving [0x50] [0x4F] 0 0)).units[1]? = some (unit1 (serving [0x50] [0x4F] 0 0)) := by decide +kernel

theorem witness_GetNextDelivers :
    let u := unit1 (serving [0x55, 0x61] [0x52] 0x5F 0x5F)
    (base1 (serving [0x55, 0x61] [0x52] 0x5F 0x5F)).units[1]? = some u ∧ u.base.getLsbD 11 = true ∧
    u.svr.getLsbD 8 = true ∧ hasVec u.irr 0x61 = true ∧
    (∀ w : Vec, hasVec u.irr w = true → w.toNat ≤ (0x61 : Vec).toNat) ∧
    (u.tpr.extractLsb' 4 4).toNat < (0x61 : Vec).toNat / 16 ∧
    (u.ppr.extractLsb' 4 4).toNat < (0x61 : Vec).toNat / 16 := by decide +kernel

theorem witness_GetNextDelivers_ppr_zero :
    let u := unit1 (serving [0x10] [] 0 0)
    (base1 (serving [0x10] [] 0 0)).units[1]? = some u ∧ u.base.getLsbD 11 = true ∧ u.svr.getLsbD 8 = true ∧
    hasVec u.irr 0x10 = true ∧ (∀ w : Vec, hasVec u.irr w = true → w.toNat ≤ (0x10 : Vec).toNat) ∧
    (u.tpr.extractLsb' 4 4).toNat < (0x10 : Vec).toNat / 16 ∧ u.ppr.extractLsb' 0 8 = 0#8 := by decide +kernel

theorem witness_GetNextWithholds :
    ((unit1 (withBase 0)).base.getLsbD 11 = false ∧ (unit1 id).svr.getLsbD 8 = false ∧ (unit1 id).irr = 0) ∧
    (let u := unit1 (serving [0x61] [0x52] 0x60 0x60)
     (base1 (serving [0x61] [0x52] 0x60 0x60)).units[1]? = some u ∧ u.base.getLsbD 11 = true ∧ u.svr.getLsbD 8 = true ∧
      hasVec u.irr 0x61 = true ∧ (∀ w : Vec, hasVec u.irr w = true → w.toNat ≤ (0x61 : Vec).toNat) ∧
      (0x61 : Vec).toNat / 16 ≤ (u.tpr.extractLsb' 4 4).toNat) ∧
    (let u := unit1 (serving [0x55] [0x52] 0x4F 0x50)
     (base1 (serving [0x55] [0x52] 0x4F 0x50)).units[1]? = some u ∧ u.base.getLsbD 11 = true ∧ u.svr.getLsbD 8 = true ∧
      hasVec u.irr 0x55 = true ∧ (∀ w : Vec, hasVec u.irr w = true → w.toNat ≤ (0x55 : Vec).toNat) ∧
      (u.tpr.extractLsb' 4 4).toNat < (0x55 : Vec).toNat / 16 ∧ u.ppr.extractLsb' 0 8 ≠ 0#8 ∧
      (0x55 : Vec).toNat / 16 ≤ (u.ppr.extractLsb' 4 4).toNat) := by decide +kernel

theorem witness_GetNextRespectsPriority :
    let u := unit1 (serving [0x55, 0x61] [0x52] 0x5F 0x5F)
    ((base1 (serving [0x55, 0x61] [0x52] 0x5F 0x5F)).units[1]? = some u ∧ u.ppr = pprValue u.tpr u.isr) ∧
    ∃ t, exec (.getNext 1) (base1 (serving [0x55, 0x61] [0x52] 0x5F 0x5F)) = .next t ∧
      decide (t.rsp = responseWord .ok 0x61 0 0) = true := ⟨by decide +kernel, exists_next (by decide +kernel)⟩

theorem witness_EoiResult :
    (unit1 id).isr = 0 ∧
    (let u := unit1 (serving [] [0x41, 0xFF] 0 0xF0)
     (base1 (serving [] [0x41, 0xFF] 0 0xF0)).units[1]? = some u ∧ hasVec u.isr 0xFF = true ∧
      ∀ w : Vec, hasVec u.isr w = true → w.toNat ≤ (0xFF : Vec).toNat) := by decide +kernel

theorem witness_ServiceMoves : State.reset.units[0]? = some (ApicUnit.afterReset standardConfig 0) := by decide +kernel

theorem witness_ServiceMovesInverse :
    (let u := unit1 (serving [0xFF] [0x52] 0 0x50)
     (base1 (serving [0xFF] [0x52] 0 0x50)).units[1]? = some u ∧ u.ppr = pprValue u.tpr u.isr ∧ hasVec u.irr 0xFF = true ∧
      hasVec u.isr 0xFF = false ∧ hasVec u.irr 0x52 = false ∧ hasVec u.isr 0x52 = true ∧ hasVec u.irr 0 = false ∧
      hasVec u.isr 0 = false) ∧
    ∃ t, exec (.getNext 1) (base1 (serving [0xFF] [0x52] 0 0x50)) = .next t ∧
      decide (t.rsp = responseWord .ok 0xFF 0 0) = true :=
  ⟨by decide +kernel, exists_next (by decide +kernel)⟩

theorem witness_PostResult : State.reset.units[3]? = some (ApicUnit.afterReset standardConfig 3) ∧
    15 < (16 : Vec).toNat ∧ hasVec (ApicUnit.afterReset standardConfig 3).irr 16 = false := by decide +kernel

theorem witness_FoldResult : State.reset.units[3]? = some (ApicUnit.afterReset standardConfig 3) := by decide +kernel

theorem witness_PostVisibleAfterFold :
    ∃ t, exec (.post 1 0x10 .level 1) State.reset = .next t ∧
      (decide (t.rsp = responseWord .ok 0 0 0) && answersWith (exec (.fold 1) t) fun _ => true) = true :=
  exists_next (by decide +kernel)

theorem witness_PostsCommute : Memory.wf (base1 fun u => { u with tag := [(0, 1), (255, 2)] }) = true := by decide +kernel

theorem witness_SetInitialCountResult : State.reset.units[3]? = some (ApicUnit.afterReset standardConfig 3) := by
  decide +kernel

theorem witness_CurrentCountResult : State.reset.units[3]? = some (ApicUnit.afterReset standardConfig 3) := by
  decide +kernel

/-- The count 1 lasts to 1001; 1000 is before its deadline, 1001 is at it. -/
theorem witness_CountRoundTrip :
    let f : ApicUnit → ApicUnit := fun u => { u with timerDcr := 0xB }
    ((unit1 f).lvtTimer.extractLsb' 17 2 ≠ 2#2 ∧ (1 : Word32) ≠ 0 ∧ (1000 : Word64).toNat ≤ vtBound) ∧
    ((1000 : Word64).toNat < (1000 : Word64).toNat + (1 : Word32).toNat * 2 ^ (divShift (unit1 f).timerDcr).toNat ∧
      (1000 : Word64).toNat + (1 : Word32).toNat * 2 ^ (divShift (unit1 f).timerDcr).toNat ≤ (1001 : Word64).toNat) ∧
    ∃ t, exec (.setInitialCount 1 1) { base1 f with vt := 1000 } = .next t :=
  by
  refine ⟨by decide +kernel, by decide +kernel, ?_⟩
  obtain ⟨t, h, -⟩ := exists_next (part := fun _ => true)
    (o := exec (.setInitialCount 1 1) { base1 (fun u => { u with timerDcr := 0xB }) with vt := 1000 }) (by decide +kernel)
  exact ⟨t, h⟩

theorem witness_TimerExpireResult :
    ({ base1 (armed 0x50) with vt := 1050 } : State).units[1]? = some (unit1 (armed 0x50)) ∧
    (unit1 id).timArmed = false ∧ (1049 : Word64).toNat < (unit1 (armed 0x50)).timDeadline.toNat ∧
    (unit1 (armed 0x50)).timArmed = true ∧ (unit1 (armed 0x50)).timDeadline.toNat ≤ (1050 : Word64).toNat ∧
    (unit1 (armed 0x50)).lvtTimer.getLsbD 16 = false ∧ (unit1 (armed 0x30050)).lvtTimer.getLsbD 16 = true := by
  decide +kernel

theorem witness_StopTimerResult :
    ({ base1 (armed 0x50) with vt := 1010 } : State).units[1]? = some (unit1 (armed 0x50)) := by decide +kernel

theorem witness_DestinationMembers : DeliveryMode.fixed ≠ .lowestPriority := by decide

theorem witness_ArbitrationWinner :
    State.reset.computeDest 0 .logical .fixed false = some [] ∧
    State.reset.computeDest 0xFF .logical .fixed false = some [0, 1, 2, 3] := by decide +kernel

/-- A unit with an ICR. -/
def withIcr (hi lo : Word32) (u : ApicUnit) : ApicUnit := { u with icrHi := hi, icrLo := lo }

theorem witness_IpiPosts :
    (base1 (withIcr 0x02000000 0x0008)).units[1]? = some (unit1 (withIcr 0x02000000 0x0008)) ∧
    IcrSendsTo (base1 (withIcr 0x02000000 0x0008)) 1 (unit1 (withIcr 0x02000000 0x0008)) [2] ∧
    (unit1 (withIcr 0x02000000 0x0008)).icrLo.extractLsb' 8 3 = 0#3 ∧
    IcrSendsTo (base1 (withIcr 0 0xC0155)) 1 (unit1 (withIcr 0 0xC0155)) [0, 2, 3] ∧
    (unit1 (withIcr 0 0xC0155)).icrLo.extractLsb' 8 3 = 1#3 := by
  refine ⟨by decide +kernel, ?_, by decide +kernel, ?_, by decide +kernel⟩
  · exact .inr (.inr (.inr (.inr (by decide +kernel))))
  · exact .inr (.inr (.inl (by decide +kernel)))

theorem witness_IpiSignals :
    ((unit1 (withIcr 0 0x8500)).icrLo.extractLsb' 8 3 = 5#3 ∧ (unit1 (withIcr 0 0x8500)).icrLo.getLsbD 14 = false ∧
      (unit1 (withIcr 0 0x8500)).icrLo.getLsbD 15 = true) ∧
    ((unit1 (withIcr 0 0x155)).icrLo.extractLsb' 8 3 = 1#3 ∧ (unit1 (withIcr 0 0x155)).icrLo.extractLsb' 18 2 = 0#2 ∧
      (unit1 (withIcr 0 0x155)).icrLo.getLsbD 11 = false) ∧
    ((unit1 (withIcr 0 0x44500)).icrLo.extractLsb' 8 3 = 5#3 ∧ (unit1 (withIcr 0 0x44500)).icrLo.getLsbD 14 = true ∧
      (unit1 (withIcr 0 0x40610)).icrLo.extractLsb' 8 3 = 6#3 ∧ (unit1 (withIcr 0 0x40200)).icrLo.extractLsb' 8 3 = 2#3 ∧
      (unit1 (withIcr 0 0x40300)).icrLo.extractLsb' 8 3 = 3#3 ∧ (unit1 (withIcr 0 0x40400)).icrLo.extractLsb' 8 3 = 4#3 ∧
      (unit1 (withIcr 0 0x40700)).icrLo.extractLsb' 8 3 = 7#3) ∧
    (base1 (withIcr 0 0x44500)).units[1]? = some (unit1 (withIcr 0 0x44500)) := by decide +kernel

/-- A send to the sender itself, by shorthand. -/
theorem witness_IpiSignals_targets :
    ∀ lo ∈ [0x44500#32, 0x40610, 0x40200, 0x40300, 0x40400, 0x40700],
      IcrSendsTo (base1 (withIcr 0 lo)) 1 (unit1 (withIcr 0 lo)) [1] := by
  intro lo h
  simp only [List.mem_cons, List.not_mem_nil, or_false] at h
  rcases h with rfl | rfl | rfl | rfl | rfl | rfl <;> exact .inl ⟨by decide +kernel, rfl⟩

theorem witness_BusDelivers :
    State.reset.computeDest 2 .physical .lowestPriority State.reset.cfg.busWide = none ∧
    State.reset.computeDest 7 .physical .fixed State.reset.cfg.busWide = some [] ∧
    State.reset.computeDest 3 .physical .sipi State.reset.cfg.busWide = some [3] := by decide +kernel

/-- A target set for every delivery mode, and the vectors on both sides of R107's bound at an enabled target. -/
theorem witness_BusDelivers_modes :
    (∀ dm ∈ [DeliveryMode.fixed, .smi, .reserved3, .nmi, .init, .sipi, .extInt],
      State.reset.computeDest 3 .physical dm State.reset.cfg.busWide = some [3]) ∧
    State.reset.computeDest 0xFF .logical .lowestPriority State.reset.cfg.busWide = some [3] ∧
    State.reset.units[3]?.any ApicUnit.isEnabled = true ∧ ¬ 15 < (15 : Vec).toNat ∧ 15 < (16 : Vec).toNat := by
  decide +kernel

/-- An entry of LINT0, Fixed, level-triggered, not masked, with and without the latch. -/
theorem witness_LocalPinFixed :
    let f (e : Word32) : ApicUnit → ApicUnit := fun u => { u with lvtLint0 := e }
    (base1 (f 0xC010)).units[1]? = some (unit1 (f 0xC010)) ∧ (unit1 (f 0xC010)).base.getLsbD 11 = true ∧
    (0xC010#32).getLsbD 16 = false ∧ (0xC010#32).extractLsb' 8 3 = 0#3 ∧ (0xC010#32).getLsbD 15 = true ∧
    (0xC010#32).getLsbD 14 = true ∧
    ¬ (Pin.lint0 = .lint0 ∧ (0x800F#32).getLsbD 15 = true ∧ (0x800F#32).getLsbD 14 = true) := by decide +kernel

theorem witness_LocalPinOther :
    let f (e : Word32) : ApicUnit → ApicUnit := fun u => { u with lvtLint1 := e }
    (unit1 (withBase 0)).base.getLsbD 11 = false ∧ (unit1 id).lvtLint1.getLsbD 16 = true ∧
    ((base1 (f 0x700)).units[1]? = some (unit1 (f 0x700)) ∧ (unit1 (f 0x700)).base.getLsbD 11 = true ∧
      (0x700#32).getLsbD 16 = false ∧ (0x700#32).extractLsb' 8 3 = 7#3) ∧
    ∀ k : BitVec 3, ((k.setWidth 32 <<< 8 : Word32)).extractLsb' 8 3 = k ∧ ((k.setWidth 32 <<< 8 : Word32)).getLsbD 16 = false :=
  by decide +kernel

/-- A state with work in progress: an outstanding post, an armed timer, staged vectors. -/
def busy : State :=
  { base1 (fun u => { armed 0x50 u with pibE := ⟨vecs [0x41], true⟩, tag := [(0x41, 1)] }) with
    vt := 1020
    inFlight := [{ agent := .poster 7, progress := ⟨true, false⟩, todo := [.postSet 1 0x42 .edge 8, .postNotify 1 .edge],
                   finish := .accepted }]
    inputs := [.advance (.poster 7)] }

theorem busy_steps : ∃ t, step busy = .next t := by
  obtain ⟨t, h, -⟩ := exists_next (o := step busy) (part := fun _ => true) (by decide +kernel)
  exact ⟨t, h⟩

theorem witness_StepKeepsPpr : busy.PprInv ∧ ∃ t, step busy = .next t := ⟨by decide +kernel, busy_steps⟩

theorem witness_StepKeepsModeAndIdentity : (busy.ModeInv ∧ busy.IdentityInv) ∧ ∃ t, step busy = .next t :=
  ⟨by decide +kernel, busy_steps⟩

theorem witness_StepKeepsTimer : busy.TimerInv ∧ ∃ t, step busy = .next t := ⟨by decide +kernel, busy_steps⟩

theorem witness_StepKeepsReserved : busy.ReservedInv ∧ ∃ t, step busy = .next t := ⟨by decide +kernel, busy_steps⟩

theorem witness_StepKeepsBookkeeping : (Memory.wf busy = true ∧ busy.FlightInv ∧ busy.NcpuInv) ∧ ∃ t, step busy = .next t :=
  ⟨by decide +kernel, busy_steps⟩

theorem witness_NoStagedVectorLost :
    (busy.units[1]?.any fun u => u.staged 0x41) = true ∧ ∃ t, step busy = .next t ∧ t.units[1]?.isSome = true :=
  ⟨by decide +kernel, exists_next (by decide +kernel)⟩

theorem witness_OnlySetBaseAndResetWriteBase :
    (scripted (.issue (.owner 1) (encode (.setBase 1 0xFEE00000)))).units[1]?.map ApicUnit.base = some 0xFEE00800 ∧
    ∃ t, step (scripted (.issue (.owner 1) (encode (.setBase 1 0xFEE00000)))) = .next t ∧
      decide (t.units[1]?.map ApicUnit.base = some 0xFEE00000) = true :=
  ⟨by decide +kernel, exists_next (by decide +kernel)⟩

/-- The clauses on the LINT0 latch and on the timer. -/
theorem witness_AnyAgentCommandsFrame_clauses :
    (mayIssue (.poster 0) (.localInterrupt 1 .lint0 true false) = true ∧ mayIssue (.poster 0) (.timerExpire 1) = true) ∧
    (∃ t, exec (.localInterrupt 1 .lint0 true false) (base1 fun u => { u with lvtLint0 := 0x8010 }) = .next t ∧
      t.units[1]?.any (fun u => decide (u.lvtLint0 = 0xC010)) = true) ∧
    ∃ t, exec (.timerExpire 1) { base1 (armed 0x50) with vt := 1050 } = .next t ∧
      t.units[1]?.any (fun u => !u.timArmed) = true :=
  ⟨by decide +kernel, exists_next (by decide +kernel), exists_next (by decide +kernel)⟩

theorem witness_AnyAgentCommandsFrame :
    (∃ a, mayIssue a (.post 1 0x41 .edge 1) = true ∧ ∀ k, a ≠ .owner k ∧ a ≠ .environment) ∧
    State.reset.units[3]?.isSome = true ∧
    ∃ t, exec (.post 3 0x41 .edge 1) State.reset = .next t ∧ t.units[3]?.isSome = true :=
  ⟨⟨.poster 0, rfl, fun _ => ⟨nofun, nofun⟩⟩, by decide +kernel, exists_next (by decide +kernel)⟩

theorem witness_UnitsIsolated :
    ((Instr.sendIpiFromIcr 1 false).unit? ≠ some 2 ∧
      (base1 (withIcr 0 0xC0030)).units[2]?.isSome = true) ∧
    (∃ t, exec (.sendIpiFromIcr 1 false) (base1 (withIcr 0 0xC0030)) = .next t ∧ t.units[2]?.isSome = true) ∧
    (Instr.busDeliver 0x41 .fixed .physical .edge false 8 2 false).unit? ≠ some 2 ∧
    ∃ t, exec (.busDeliver 0x41 .fixed .physical .edge false 8 2 false) State.reset = .next t ∧
      t.units[2]?.any (fun u => u.pibE.notify) = true :=
  ⟨by decide +kernel, exists_next (by decide +kernel), nofun, exists_next (by decide +kernel)⟩

theorem witness_SplitRunEqualsWhole :
    ∃ t, step { State.reset with inputs := [.issue (.poster 0) 0x30014100000000010000000000000000] } = .next t ∧
      t.inputs.isEmpty = true := exists_next (by decide +kernel)

end Sys2Proof.Tests
end

section
/-! The bookkeeping every step keeps (O55). The configuration, the number of units, `VT` and `OUT` are what `step_moves`
says of them. Two facts are added here: what a move does to the tags of a unit, and what an input does to the list of
outstanding commands. -/

namespace Sys2Proof.Machine

/-! ## The tags of a unit, operation by operation -/

@[simp] theorem ApicUnit.setPib_tag (u : ApicUnit) (t : Trigger) (p : Pib) : (u.setPib t p).tag = u.tag := by
  cases t <;> rfl

@[simp] theorem ApicUnit.setNotify_tag (u : ApicUnit) (t : Trigger) : (u.setNotify t).tag = u.tag :=
  u.setPib_tag t _

@[simp] theorem ApicUnit.clearNotify_tag (u : ApicUnit) (t : Trigger) : (u.clearNotify t).tag = u.tag :=
  u.setPib_tag t _

@[simp] theorem ApicUnit.drainWord_tag (u : ApicUnit) (t : Trigger) (k : Fin 4) : (u.drainWord t k).tag = u.tag :=
  u.setPib_tag t _

@[simp] theorem ApicUnit.raiseSignal_tag (u : ApicUnit) (sig : Signal) : (u.raiseSignal sig).tag = u.tag := by
  cases sig <;> rfl

@[simp] theorem ApicUnit.setLvt_tag (u : ApicUnit) (l : Lvt) (x : Word32) : (u.setLvt l x).tag = u.tag := by
  cases l <;> rfl

@[simp] theorem ApicUnit.writeLvt_tag (u : ApicUnit) (l : Lvt) (x : Word32) : (u.writeLvt l x).tag = u.tag := by
  unfold ApicUnit.writeLvt
  split <;> exact u.setLvt_tag l _

@[simp] theorem ApicUnit.writeSvr_tag (u : ApicUnit) (x : Word32) : (u.writeSvr x).tag = u.tag := by
  unfold ApicUnit.writeSvr
  split <;> rfl

@[simp] theorem ApicUnit.setInitialCount_tag (u : ApicUnit) (now : Word64) (n : Word32) :
    (u.setInitialCount now n).tag = u.tag := by
  unfold ApicUnit.setInitialCount
  split <;> rfl

@[simp] theorem ApicUnit.expire_tag (u : ApicUnit) (now : Word64) : (u.expire now).tag = u.tag := by
  unfold ApicUnit.expire
  split <;> rfl

@[simp] theorem ApicUnit.endInterrupt_tag (u : ApicUnit) (v : Vec) : (u.endInterrupt v).tag = u.tag := by
  unfold ApicUnit.endInterrupt
  cases hasVec u.tmr v <;> rfl

/-- A change of `BASE` keeps the tags, unless it enables a disabled unit, which clears them (R252). -/
theorem ApicUnit.changeBase_tag (c : Config) (i : Nat) (u : ApicUnit) (x : Word64) :
    (u.changeBase c i x).tag = u.tag ∨ (u.changeBase c i x).tag = [] := by
  unfold ApicUnit.changeBase
  split
  · exact .inr rfl
  · exact .inl rfl
  · exact .inl rfl

/-- What a move can do to the tags of a unit: keep them, clear them all, or write the tag of one vector. -/
theorem UnitMove.tag_cases {c : Config} {now : Word64} {i : Nat} {u u' : ApicUnit} (h : UnitMove c now i u u') :
    u'.tag = u.tag ∨ u'.tag = [] ∨ ∃ (v : Vec) (g : Word32), u'.tag = u.tag.write v.toNat g := by
  cases h with
  | powerOn => exact .inr (.inl rfl)
  | initReset => exact .inr (.inl rfl)
  | changeBase x _ => exact (u.changeBase_tag c i x).imp_right .inl
  | acknowledge v => exact .inr (.inr ⟨v, 0, rfl⟩)
  | stagePost v trig tag => exact .inr (.inr ⟨v, u.tag.read v.toNat ||| tag, rfl⟩)
  | endInterrupt v => exact .inl (u.endInterrupt_tag v)
  | setNotify trig => exact .inl (u.setNotify_tag trig)
  | clearNotify trig => exact .inl (u.clearNotify_tag trig)
  | drainWord trig k => exact .inl (u.drainWord_tag trig k)
  | raiseSignal sig => exact .inl (u.raiseSignal_tag sig)
  | setInitialCount n => exact .inl (u.setInitialCount_tag now n)
  | expire _ => exact .inl (u.expire_tag now)
  | writeSvr x _ => exact .inl (u.writeSvr_tag x)
  | writeLvt l x _ => exact .inl (u.writeLvt_tag l x)
  | _ => exact .inl rfl

/-- Every move keeps the canonical form of the tags (log 18): a write has a vector below 256. -/
theorem UnitMove.keeps_tag_wf {c : Config} {now : Word64} {i : Nat} {u u' : ApicUnit} (h : UnitMove c now i u u')
    (hu : TagStore.wf u.tag = true) : TagStore.wf u'.tag = true := by
  obtain ht | ht | ⟨v, g, ht⟩ := h.tag_cases
  · rwa [ht]
  · rw [ht, TagStore.wf_nil]
  · rw [ht]
    exact TagStore.write_wf v.isLt hu

/-- The canonical form of the tag stores, unit by unit. -/
theorem memory_wf_iff {s : State} :
    Memory.wf s = true ↔ ∀ (i : Nat) (u : ApicUnit), s.units[i]? = some u → TagStore.wf u.tag = true := by
  simp only [Memory.wf, List.all_eq_true, List.mem_iff_getElem?, forall_exists_index]
  exact forall_comm

theorem step_keeps_memory_wf {s t : State} (h : step s = .next t) (hs : Memory.wf s = true) : Memory.wf t = true :=
  memory_wf_iff.mpr <|
    step_keeps_units (P := fun _ u => TagStore.wf u.tag = true) (fun _ _ _ hm => hm.keeps_tag_wf) h
      (memory_wf_iff.mp hs)

/-! ## The outstanding commands -/

/-- What an input can do to the outstanding commands: nothing, add an unfinished one of an agent that has none, end those
of an agent, or put an unfinished one in the place of its agent's. -/
inductive FlightMove (l : List InFlight) : List InFlight → Prop where
  | keep : FlightMove l l
  | start (c : InFlight) (hfresh : ∀ d ∈ l, d.agent ≠ c.agent) (htodo : c.todo ≠ []) : FlightMove l (l ++ [c])
  | finish (a : Agent) : FlightMove l (l.filter fun c => decide (c.agent ≠ a))
  | proceed (c : InFlight) (htodo : c.todo ≠ []) : FlightMove l (l.map fun d => if d.agent = c.agent then c else d)

/-- The command that takes the place of its agent's has the same agent. -/
theorem map_agent_replace (l : List InFlight) (c : InFlight) :
    (l.map fun d => if d.agent = c.agent then c else d).map InFlight.agent = l.map InFlight.agent := by
  rw [List.map_map]
  refine List.map_congr_left fun d _ => ?_
  by_cases h : d.agent = c.agent <;> simp [h]

/-- R311: one outstanding command an agent, none of them finished. -/
theorem FlightMove.keeps_flightInv {s t : State} (h : FlightMove s.inFlight t.inFlight) (hs : s.FlightInv) :
    t.FlightInv := by
  obtain ⟨hnodup, htodo⟩ := hs
  unfold State.FlightInv
  generalize t.inFlight = l at h ⊢
  cases h with
  | keep => exact ⟨hnodup, htodo⟩
  | start c hfresh hc =>
    constructor
    · rw [List.map_append, List.nodup_append]
      refine ⟨hnodup, by simp, ?_⟩
      simpa using hfresh
    · intro d hd
      obtain hd | hd := List.mem_append.mp hd
      · exact htodo d hd
      · rwa [List.mem_singleton.mp hd]
  | finish a =>
    exact ⟨hnodup.sublist (List.filter_sublist.map _), fun d hd => htodo d (List.mem_of_mem_filter hd)⟩
  | proceed c hc =>
    constructor
    · rwa [map_agent_replace]
    · intro d hd
      obtain ⟨e, he, rfl⟩ := List.mem_map.mp hd
      split
      · exact hc
      · exact htodo e he

/-- An agent that is not busy has no outstanding command. -/
theorem agent_ne_of_not_busy {s : State} {a : Agent} (h : s.busy a = false) : ∀ c ∈ s.inFlight, c.agent ≠ a := by
  simpa [State.busy] using h

theorem begin_flight {a : Agent} {s : State} {p : Plan} (hb : s.busy a = false) (h : CommandMoves s p.state) :
    FlightMove s.inFlight (State.begin a p).inFlight := by
  unfold State.begin
  split
  · rw [State.answerTo_inFlight, (complete_moves h).inFlight]
    exact .keep
  · rename_i htodo
    simp only [h.inFlight]
    exact .start _ (agent_ne_of_not_busy hb) (by simp [htodo])

theorem advanceCommand_flight (c : InFlight) (s : State) : FlightMove s.inFlight (advanceCommand c s).inFlight := by
  unfold advanceCommand
  split
  · exact .finish c.agent
  · rename_i a rest _
    have hflight : (atomicStep a s c.progress).1.inFlight = s.inFlight := (atomicStep_moves a s c.progress).inFlight
    cases rest with
    | nil =>
      simp only [State.answerTo_inFlight, State.respond_inFlight, State.dropInFlight_inFlight, hflight]
      exact .finish c.agent
    | cons b rest =>
      simp only [State.keepInFlight_inFlight, hflight]
      exact .proceed { c with progress := (atomicStep a s c.progress).2, todo := b :: rest } (List.cons_ne_nil b rest)

/-- A whole command, its response given to the issuer, leaves the outstanding commands alone. -/
theorem answerOutcome_exec_flight {a : Agent} {i : Instr} {s t : State} (h : answerOutcome a (exec i s) = .next t) :
    FlightMove s.inFlight t.inFlight := by
  obtain ⟨r, hx, rfl⟩ := answerOutcome_next h
  rw [State.answerTo_inFlight, (exec_moves hx).inFlight]
  exact .keep

theorem startCommand_flight {a : Agent} {i : Instr} {s t : State} (hb : s.busy a = false)
    (h : startCommand a s i = .next t) : FlightMove s.inFlight t.inFlight := by
  unfold startCommand at h
  split at h
  · rename_i p hp
    cases h
    exact begin_flight hb (planOf_moves hp)
  · exact answerOutcome_exec_flight h

theorem takeWord_flight {a : Agent} {w : PortWord} {s t : State} {run : Instr → Host.Outcome State Fault Refusal}
    (hrun : ∀ i, s.busy a = false → run i = .next t → FlightMove s.inFlight t.inFlight)
    (h : takeWord a w s run = .next t) : FlightMove s.inFlight t.inFlight := by
  obtain ⟨hb, ⟨_, -, rfl⟩ | ⟨i, -, -, hr⟩⟩ := takeWord_next h
  · exact .keep
  · exact hrun i hb hr

theorem runInput_flight {inp : Input} {s t : State} (h : runInput inp s = .next t) :
    FlightMove s.inFlight t.inFlight := by
  cases inp with
  | issue a w => exact takeWord_flight (fun _ _ hr => answerOutcome_exec_flight hr) h
  | start a w => exact takeWord_flight (fun _ hb hr => startCommand_flight hb hr) h
  | advance a =>
    simp only [runInput] at h
    split at h
    · cases h
    · cases h
      exact advanceCommand_flight _ s
  | time vt =>
    simp only [runInput] at h
    split at h
    · cases h
      exact .keep
    · cases h
  | takeNmi i =>
    cases h
    rw [(CommandMoves.mapUnit_one s i _ fun u => UnitMove.takeNmi u).inFlight]
    exact .keep
  | takeSmi i =>
    cases h
    rw [(CommandMoves.mapUnit_one s i _ fun u => UnitMove.takeSmi u).inFlight]
    exact .keep

/-- What a step can do to the outstanding commands. -/
theorem step_flight {s t : State} (h : step s = .next t) : FlightMove s.inFlight t.inFlight := by
  unfold step at h
  split at h
  · cases h
    exact .keep
  · rename_i inp rest _
    exact runInput_flight (s := { s with inputs := rest }) h

/-! ## The statement -/

/-- Settles O55: the tags move by `UnitMove.tag_cases`, the outstanding commands by `step_flight`, and the rest is part of
`step_moves`. -/
theorem stepKeepsBookkeeping : Obligations.StepKeepsBookkeeping := by
  intro s t h
  have hm := step_moves h
  have hncpu : s.NcpuInv → t.NcpuInv := by
    simp only [State.NcpuInv, State.ncpu, hm.length]
    exact id
  exact ⟨step_keeps_memory_wf h, (step_flight h).keeps_flightInv, hncpu, hm.cfg, hm.length, hm.vt, hm.out⟩

end Sys2Proof.Machine
end

section
/-! What a step can do to the identity registers, the mode and the timer of a unit, said once, and the two invariants that
follow: mode, ID, VERSION and LDR (O52), and the armed timer (O53). -/

namespace Sys2Proof.Machine

/-! ## The moves that set a unit up -/

/-- The units agree on what identifies a unit: BASE, ID, VERSION and LDR (R13, R14, R19, R35). -/
structure ApicUnit.SameIdentity (u u' : ApicUnit) : Prop where
  base : u'.base = u.base
  id : u'.id = u.id
  version : u'.version = u.version
  ldr : u'.ldr = u.ldr

/-- The units agree on the identity, and on the count and the hidden state of the timer (R34). -/
structure ApicUnit.SameSetup (u u' : ApicUnit) : Prop extends u.SameIdentity u' where
  timerIcr : u'.timerIcr = u.timerIcr
  timArmed : u'.timArmed = u.timArmed
  timArmAt : u'.timArmAt = u.timArmAt
  timDeadline : u'.timDeadline = u.timDeadline
  timShift : u'.timShift = u.timShift

theorem ApicUnit.SameIdentity.refl (u : ApicUnit) : u.SameIdentity u := ⟨rfl, rfl, rfl, rfl⟩

theorem ApicUnit.SameSetup.refl (u : ApicUnit) : u.SameSetup u := ⟨.refl u, rfl, rfl, rfl, rfl, rfl⟩

theorem ApicUnit.setPib_sameSetup (u : ApicUnit) (t : Trigger) (p : Pib) : u.SameSetup (u.setPib t p) := by
  cases t <;> exact { ApicUnit.SameSetup.refl u with }

theorem ApicUnit.raiseSignal_sameSetup (u : ApicUnit) (sig : Signal) : u.SameSetup (u.raiseSignal sig) := by
  cases sig <;> exact { ApicUnit.SameSetup.refl u with }

theorem ApicUnit.endInterrupt_sameSetup (u : ApicUnit) (v : Vec) : u.SameSetup (u.endInterrupt v) := by
  unfold ApicUnit.endInterrupt
  cases hasVec u.tmr v <;> exact { ApicUnit.SameSetup.refl u with }

theorem ApicUnit.writeSvr_sameSetup (u : ApicUnit) (x : Word32) : u.SameSetup (u.writeSvr x) := by
  unfold ApicUnit.writeSvr
  split <;> exact { ApicUnit.SameSetup.refl u with }

theorem ApicUnit.setLvt_sameSetup (u : ApicUnit) (l : Lvt) (x : Word32) : u.SameSetup (u.setLvt l x) := by
  cases l <;> exact { ApicUnit.SameSetup.refl u with }

theorem ApicUnit.writeLvt_sameSetup (u : ApicUnit) (l : Lvt) (x : Word32) : u.SameSetup (u.writeLvt l x) := by
  have h := u.setLvt_sameSetup l ((u.lvt l &&& 0x00004000#32) ||| x)
  unfold ApicUnit.writeLvt
  split
  · exact { h with }
  · exact h

theorem ApicUnit.setInitialCount_sameIdentity (u : ApicUnit) (now : Word64) (n : Word32) :
    u.SameIdentity (u.setInitialCount now n) := by
  unfold ApicUnit.setInitialCount
  split <;> exact { ApicUnit.SameIdentity.refl u with }

theorem ApicUnit.expire_sameIdentity (u : ApicUnit) (now : Word64) : u.SameIdentity (u.expire now) := by
  unfold ApicUnit.expire
  split <;> exact { ApicUnit.SameIdentity.refl u with }

/-- The moves that write what `SameSetup` compares: the resets, `SET_BASE`, an LDR write and the timer's commands. -/
inductive SetupMove (c : Config) (now : Word64) (i : Nat) : ApicUnit → ApicUnit → Prop where
  | powerOn (u : ApicUnit) : SetupMove c now i u (u.powerOn c i)
  | initReset (u : ApicUnit) : SetupMove c now i u (u.regsReset c i false)
  | changeBase (u : ApicUnit) (x : Word64) (h : baseRejected c u x = false) : SetupMove c now i u (u.changeBase c i x)
  | storeLdr (u : ApicUnit) (x : Word32) (hm : u.mode ≠ .x2apic) : SetupMove c now i u { u with ldr := x }
  | setInitialCount (u : ApicUnit) (n : Word32) : SetupMove c now i u (u.setInitialCount now n)
  | expire (u : ApicUnit) (h : u.timerDue now = true) : SetupMove c now i u (u.expire now)
  | stopTimer (u : ApicUnit) : SetupMove c now i u u.stopTimer

/-- Every move is one of those, or changes nothing of the identity and the timer. -/
theorem UnitMove.setup_cases {c : Config} {now : Word64} {i : Nat} {u u' : ApicUnit} (h : UnitMove c now i u u') :
    u.SameSetup u' ∨ SetupMove c now i u u' := by
  cases h with
  | powerOn => exact .inr (.powerOn u)
  | initReset => exact .inr (.initReset u)
  | changeBase x hx => exact .inr (.changeBase u x hx)
  | storeLdr x hm _ => exact .inr (.storeLdr u x hm)
  | setInitialCount n => exact .inr (.setInitialCount u n)
  | expire hdue => exact .inr (.expire u hdue)
  | stopTimer => exact .inr (.stopTimer u)
  | stagePost v trig tag => exact .inl { u.setPib_sameSetup trig _ with }
  | setNotify trig => exact .inl (u.setPib_sameSetup trig _)
  | clearNotify trig => exact .inl (u.setPib_sameSetup trig _)
  | drainWord trig k => exact .inl { u.setPib_sameSetup trig _ with }
  | raiseSignal sig => exact .inl (u.raiseSignal_sameSetup sig)
  | endInterrupt v => exact .inl (u.endInterrupt_sameSetup v)
  | writeSvr x _ => exact .inl (u.writeSvr_sameSetup x)
  | writeLvt l x _ => exact .inl (u.writeLvt_sameSetup l x)
  | _ => exact .inl { ApicUnit.SameSetup.refl u with }

/-- An invariant of every unit that every move keeps is kept by every step. -/
theorem step_keeps_all_units {s t : State} {P : ApicUnit → Prop}
    (hP : ∀ i u u', UnitMove s.cfg s.vt i u u' → P u → P u') (h : step s = .next t) (hs : ∀ u ∈ s.units, P u) :
    ∀ u ∈ t.units, P u := by
  intro u hu
  obtain ⟨i, hi⟩ := List.mem_iff_getElem?.mp hu
  exact step_keeps_units (P := fun _ => P) hP h (fun _ _ hj => hs _ (List.mem_of_getElem? hj)) i u hi

/-! ## `SET_BASE` and the value `RESET` gives BASE -/

/-- What an accepted `SET_BASE` value satisfies (R250, R251). -/
theorem baseRejected_eq_false {c : Config} {u : ApicUnit} {x : Word64} (h : baseRejected c u x = false) :
    x &&& baseReservedMask = 0 ∧ x.extractLsb' 12 24 = c.apicBaseAddr.extractLsb' 12 24 ∧ modeOf x ≠ .invalid ∧
      modeRank (modeOf x) ≤ modeRank c.maxMode ∧ legalTransition u.mode (modeOf x) = true := by
  simpa [baseRejected, and_assoc] using h

@[simp] theorem ApicUnit.changeBase_base (c : Config) (i : Nat) (u : ApicUnit) (x : Word64) :
    (u.changeBase c i x).base = x := by
  unfold ApicUnit.changeBase
  split <;> rfl

/-- What an accepted `SET_BASE` does, by the transition it makes (R251, R252). -/
theorem ApicUnit.changeBase_cases {c : Config} {u : ApicUnit} {x : Word64} (i : Nat) (h : baseRejected c u x = false) :
    (modeOf x = .xapic ∧ u.changeBase c i x = { u.regsReset c i true with base := x }) ∨
    (modeOf x = .x2apic ∧ u.changeBase c i x = { u with id := x2apicId i, ldr := x2apicLdr i, base := x }) ∨
    ((modeOf x = .disabled ∨ modeOf x = u.mode) ∧ u.changeBase c i x = { u with base := x }) := by
  obtain ⟨-, -, -, -, hlegal⟩ := baseRejected_eq_false h
  unfold ApicUnit.changeBase
  cases hu : u.mode <;> cases hx : modeOf x <;> simp_all [legalTransition]

/-- `RESET` enables the unit in xAPIC mode, unless the platform disallows APICs (R291). -/
theorem modeOf_resetBase {c : Config} (i : Nat) (h : c.apicBaseAddr.extractLsb' 0 12 = 0#12) :
    modeOf (resetBase c i) = if c.maxMode = .disabled then .disabled else .xapic := by
  have hlow : ∀ k, k < 12 → c.apicBaseAddr.getLsbD k = false := fun k hk => by
    simpa [hk] using congrArg (·.getLsbD k) h
  have hen : (resetBase c i).getLsbD 11 = !decide (c.maxMode = .disabled) := by
    simp only [resetBase, BitVec.getLsbD_or, hlow 11 (by decide)]
    split <;> split <;> simp_all
  have hextd : (resetBase c i).getLsbD 10 = false := by
    simp only [resetBase, BitVec.getLsbD_or, hlow 10 (by decide)]
    split <;> split <;> simp
  unfold modeOf
  rw [hen, hextd]
  by_cases hm : c.maxMode = .disabled <;> simp [hm]

/-- The two bits `RESET` adds to the base address lie below it (R35). -/
theorem resetBase_address (c : Config) (i : Nat) :
    (resetBase c i).extractLsb' 12 24 = c.apicBaseAddr.extractLsb' 12 24 := by
  unfold resetBase
  rw [BitVec.extractLsb'_or, BitVec.extractLsb'_or]
  split <;> split <;> simp

/-! ## The mode and the identity -/

theorem modeRank_xapic_le {m : Mode} (h : m ≠ .disabled) : modeRank .xapic ≤ modeRank m := by
  cases m
  case disabled => exact absurd rfl h
  all_goals decide

theorem ApicUnit.SameIdentity.modeOk {c : Config} {u u' : ApicUnit} (h : u.SameIdentity u') (hu : u.ModeOk c) :
    u'.ModeOk c := by
  unfold ApicUnit.ModeOk ApicUnit.mode
  rwa [h.base]

theorem ApicUnit.SameIdentity.identityOk {c : Config} {i : Nat} {u u' : ApicUnit} (h : u.SameIdentity u')
    (hu : u.IdentityOk c i) : u'.IdentityOk c i := by
  unfold ApicUnit.IdentityOk ApicUnit.mode
  rwa [h.base, h.id, h.version, h.ldr]

theorem UnitMove.keeps_modeOk {c : Config} {now : Word64} {i : Nat} {u u' : ApicUnit} (hc : ConfigBaseOk c)
    (h : UnitMove c now i u u') (hu : u.ModeOk c) : u'.ModeOk c := by
  obtain hs | hs := h.setup_cases
  · exact hs.modeOk hu
  · cases hs with
    | powerOn =>
      have hmode : (u.powerOn c i).mode = if c.maxMode = .disabled then .disabled else .xapic := modeOf_resetBase i hc.1
      refine ⟨?_, ?_, resetBase_address c i⟩ <;> rw [hmode] <;> split
      · decide
      · decide
      · exact Nat.zero_le _
      · exact modeRank_xapic_le ‹_›
    | initReset => exact hu
    | changeBase x hx =>
      obtain ⟨-, haddr, hvalid, hmax, -⟩ := baseRejected_eq_false hx
      unfold ApicUnit.ModeOk ApicUnit.mode
      rw [ApicUnit.changeBase_base]
      exact ⟨hvalid, hmax, haddr⟩
    | storeLdr x _ => exact hu
    | setInitialCount n => exact (u.setInitialCount_sameIdentity now n).modeOk hu
    | expire _ => exact (u.expire_sameIdentity now).modeOk hu
    | stopTimer => exact hu

theorem UnitMove.keeps_identityOk {c : Config} {now : Word64} {i : Nat} {u u' : ApicUnit} (hc : ConfigBaseOk c)
    (h : UnitMove c now i u u') (hu : u.IdentityOk c i) : u'.IdentityOk c i := by
  have ⟨hversion, hxapic, hx2apic⟩ := hu
  obtain hs | hs := h.setup_cases
  · exact hs.identityOk hu
  · cases hs with
    | powerOn =>
      refine ⟨rfl, fun _ => rfl, fun hm => ?_⟩
      rw [show (u.powerOn c i).mode = _ from modeOf_resetBase i hc.1] at hm
      split at hm <;> cases hm
    | initReset =>
      refine ⟨hversion, hxapic, fun hm => ⟨(hx2apic hm).1, ?_⟩⟩
      simp [ApicUnit.regsReset, show u.mode = _ from hm]
    | changeBase x hx =>
      obtain ⟨hm, he⟩ | ⟨hm, he⟩ | ⟨hm, he⟩ := ApicUnit.changeBase_cases i hx <;> rw [he]
      · exact ⟨rfl, fun _ => rfl, fun hm' => absurd (hm.symm.trans hm') (by decide)⟩
      · exact ⟨hversion, fun hm' => absurd (hm.symm.trans hm') (by decide), fun _ => ⟨rfl, rfl⟩⟩
      · have hkept : ∀ m, m ≠ .disabled → modeOf x = m → u.mode = m := by
          rintro m hne rfl
          exact (hm.resolve_left hne).symm
        exact ⟨hversion, fun hm' => hxapic (hkept _ (by decide) hm'), fun hm' => hx2apic (hkept _ (by decide) hm')⟩
    | storeLdr x hm => exact ⟨hversion, hxapic, fun hm' => absurd hm' hm⟩
    | setInitialCount n => exact (u.setInitialCount_sameIdentity now n).identityOk hu
    | expire _ => exact (u.expire_sameIdentity now).identityOk hu
    | stopTimer => exact hu

/-- `IdentityOk` unit by unit, as `step_keeps_units` has it. -/
theorem identityOk_iff {s : State} {c : Config} :
    (∀ (i : Nat) (h : i < s.units.length), (s.units[i]'h).IdentityOk c i) ↔
      ∀ (i : Nat) (u : ApicUnit), s.units[i]? = some u → u.IdentityOk c i := by
  constructor
  · intro h i u hu
    obtain ⟨hi, rfl⟩ := List.getElem?_eq_some_iff.mp hu
    exact h i hi
  · exact fun h i hi => h i _ (List.getElem?_eq_getElem hi)

/-- Settles O52: of all moves only the resets, `SET_BASE` and an LDR write outside x2APIC mode touch the mode and the
identity, and each of them leaves what R13, R14, R19 and R250 ask for. -/
theorem stepKeepsModeAndIdentity : Obligations.StepKeepsModeAndIdentity := by
  intro s t h
  have hcfg := (step_moves h).cfg
  unfold State.ModeInv State.IdentityInv
  rw [hcfg]
  constructor
  · rintro ⟨hc, hs⟩
    exact ⟨hc, step_keeps_all_units (fun _ _ _ hm => hm.keeps_modeOk hc) h hs⟩
  · rintro ⟨hc, hs⟩
    exact ⟨hc, identityOk_iff.mpr (step_keeps_units (P := fun i u => u.IdentityOk s.cfg i)
      (fun _ _ _ hm => hm.keeps_identityOk hc) h (identityOk_iff.mp hs))⟩

/-! ## The timer -/

/-- Arming from a non-zero count gives the deadline R172 says; with `now` inside the premise of R170 the addition does not
wrap: a count is below 2^32 and a divider at most 2^7. -/
theorem ApicUnit.arm_timerOk {u : ApicUnit} {now : Word64} (hnow : now.toNat ≤ vtBound) (hn : u.timerIcr ≠ 0) :
    (u.arm now u.timerIcr).TimerOk now := by
  refine fun _ => ⟨hn, le_rfl, ?_⟩
  have hcount : u.timerIcr.toNat < 2 ^ 32 := u.timerIcr.isLt
  have hdivider : 2 ^ (divShift u.timerDcr).toNat ≤ 2 ^ 7 :=
    Nat.pow_le_pow_right (by decide) (Nat.le_of_lt_succ (divShift u.timerDcr).isLt)
  have hspan : u.timerIcr.toNat * 2 ^ (divShift u.timerDcr).toNat ≤ 2 ^ 32 * 2 ^ 7 := Nat.mul_le_mul hcount.le hdivider
  simp only [vtBound] at hnow
  simp only [ApicUnit.arm, BitVec.toNat_add, BitVec.toNat_shiftLeft, BitVec.toNat_setWidth, Nat.shiftLeft_eq]
  rw [Nat.mod_eq_of_lt (a := u.timerIcr.toNat) (by omega), Nat.mod_eq_of_lt (a := u.timerIcr.toNat * _) (by omega),
    Nat.mod_eq_of_lt (by omega)]

/-- A timer that is not armed satisfies `TimerOk`. -/
theorem ApicUnit.timerOk_of_stopped {u : ApicUnit} (now : Word64) (h : u.timArmed = false) : u.TimerOk now :=
  fun ha => by cases h.symm.trans ha

theorem UnitMove.keeps_timerOk {c : Config} {now : Word64} {i : Nat} {u u' : ApicUnit} (hnow : now.toNat ≤ vtBound)
    (h : UnitMove c now i u u') (hu : u.TimerOk now) : u'.TimerOk now := by
  obtain hs | hs := h.setup_cases
  · unfold ApicUnit.TimerOk
    rwa [hs.timArmed, hs.timerIcr, hs.timArmAt, hs.timDeadline, hs.timShift]
  · cases hs with
    | powerOn => exact ApicUnit.timerOk_of_stopped now rfl
    | initReset => exact ApicUnit.timerOk_of_stopped now rfl
    | changeBase x hx =>
      obtain ⟨-, he⟩ | ⟨-, he⟩ | ⟨-, he⟩ := ApicUnit.changeBase_cases i hx <;> rw [he]
      · exact ApicUnit.timerOk_of_stopped now rfl
      · exact hu
      · exact hu
    | storeLdr x _ => exact hu
    | setInitialCount n =>
      unfold ApicUnit.setInitialCount
      split
      · exact ApicUnit.timerOk_of_stopped now rfl
      · exact ApicUnit.arm_timerOk (u := { u with timerIcr := n }) hnow ‹_›
    | expire hdue =>
      unfold ApicUnit.expire
      split
      · have harmed : u.timArmed = true := (Bool.and_eq_true_iff.mp hdue).1
        exact ApicUnit.arm_timerOk hnow (hu harmed).1
      · exact ApicUnit.timerOk_of_stopped now rfl
    | stopTimer => exact ApicUnit.timerOk_of_stopped now rfl

/-- A later time keeps the arming instant in the past. -/
theorem ApicUnit.TimerOk.later {u : ApicUnit} {now later : Word64} (h : u.TimerOk now)
    (hle : now.toNat ≤ later.toNat) : u.TimerOk later := by
  intro ha
  obtain ⟨hcount, hpast, hdeadline⟩ := h ha
  exact ⟨hcount, hpast.trans hle, hdeadline⟩

/-- Settles O53: the moves of a step keep the timer at the old `VT`, and `VT` never goes back. -/
theorem stepKeepsTimer : Obligations.StepKeepsTimer := by
  rintro s t ⟨hnow, hs⟩ h
  have hm := step_moves h
  have hold := step_keeps_all_units (fun _ _ _ => UnitMove.keeps_timerOk hnow) h hs
  exact ⟨hm.vtBound hnow, fun u hu => (hold u hu).later hm.vt⟩

end Sys2Proof.Machine
end

section
/-! The reserved bits of every register (O54): which bits the operations of the masks leave clear, then each move of a
unit, one register at a time. -/

namespace Sys2Proof.Machine

/-! ## Bits outside a mask -/

theorem outside_or {w : Nat} {x y m : BitVec w} (hx : x &&& ~~~m = 0) (hy : y &&& ~~~m = 0) :
    (x ||| y) &&& ~~~m = 0 := by
  rw [BitVec.and_or_distrib_right, hx, hy]
  exact BitVec.or_self

theorem outside_and {w : Nat} {x m : BitVec w} (y : BitVec w) (hx : x &&& ~~~m = 0) : (x &&& y) &&& ~~~m = 0 := by
  rw [BitVec.and_assoc, BitVec.and_comm y, ← BitVec.and_assoc, hx]
  exact BitVec.zero_and

/-- A value inside a mask is inside every larger mask. -/
theorem outside_trans {w : Nat} {x m n : BitVec w} (hx : x &&& ~~~m = 0) (hm : m &&& ~~~n = 0) : x &&& ~~~n = 0 := by
  refine BitVec.eq_of_getLsbD_eq fun k hk => ?_
  have hxk := congrArg (·.getLsbD k) hx
  have hmk := congrArg (·.getLsbD k) hm
  simp only [BitVec.getLsbD_and, BitVec.getLsbD_not, hk, decide_true, Bool.true_and] at hxk hmk ⊢
  cases hb : m.getLsbD k <;> simp_all

/-- A value inside the mask of the top byte has nothing below it. -/
theorem low_bits_of_top_byte {x : Word32} (h : x &&& ~~~0xFF000000#32 = 0) : x.extractLsb' 0 24 = 0#24 := by
  have hlow := congrArg (BitVec.extractLsb' 0 24) h
  rwa [BitVec.extractLsb'_and, show (~~~0xFF000000#32).extractLsb' 0 24 = BitVec.allOnes 24 by decide,
    BitVec.and_allOnes] at hlow

/-- The low half of an admitted 64-bit ICR value is an admitted ICR_LO value (R232). -/
theorem icrLo_of_icr64 {x : Word64} (h : x &&& ~~~0xFFFFFFFF000CCFFF#64 = 0) :
    x.extractLsb' 0 32 &&& ~~~0xCCFFF#32 = 0 := by
  have hlow := congrArg (BitVec.extractLsb' 0 32) h
  rwa [BitVec.extractLsb'_and,
    show (~~~0xFFFFFFFF000CCFFF#64).extractLsb' 0 32 = ~~~0xCCFFF#32 by decide] at hlow

theorem byte_high_bits (x : BitVec 8) : (x.setWidth 32).extractLsb' 8 24 = 0#24 := by
  refine BitVec.eq_of_getLsbD_eq fun k hk => ?_
  simp

/-- PPR is a byte (R17). -/
theorem pprValue_high_bits (tpr : Word32) (isr : VecSet) : (pprValue tpr isr).extractLsb' 8 24 = 0#24 := by
  unfold pprValue
  split
  · exact byte_high_bits _
  · exact byte_high_bits _

/-- A DFR write sets all bits below the model (R20, R240). -/
theorem dfr_low_bits (x : Word32) : (x ||| 0x0FFFFFFF#32).extractLsb' 0 28 = BitVec.allOnes 28 := by
  rw [BitVec.extractLsb'_or, show (0x0FFFFFFF#32).extractLsb' 0 28 = BitVec.allOnes 28 by decide, BitVec.or_allOnes]

/-! ## The LVT registers -/

/-- The bits an LVT register may hold: the fields R93 lists for it, delivery status not among them, and remote-IRR in
LVT_LINT0 (R212). -/
def lvtFields : Lvt → Word32
  | .timer => 0x700FF
  | .thermal => 0x107FF
  | .perf => 0x107FF
  | .lint0 => 0x1E7FF
  | .lint1 => 0x1A7FF
  | .error => 0x100FF

/-- No legal write mask of an LVT register admits a bit outside its fields (R232). -/
theorem lvtMask_inside {c : Config} (hc : ConfigMasksOk c) (l : Lvt) : c.lvtMask l &&& ~~~(lvtFields l) = 0 := by
  obtain ⟨-, -, -, -, -, -, htimer, hthermal, hperf, hlint0, hlint1, herror, -⟩ := hc
  cases l with
  | timer =>
    simp only [Config.lvtMask]
    split
    · exact htimer
    · exact outside_and _ htimer
  | thermal => exact hthermal
  | perf => exact hperf
  | lint0 => exact outside_trans hlint0 (by decide)
  | lint1 => exact hlint1
  | error => exact herror

theorem lvtMasked_inside (l : Lvt) : lvtMasked &&& ~~~(lvtFields l) = 0 := by
  cases l <;> decide

theorem ApicUnit.lvt_setLvt (u : ApicUnit) (l l' : Lvt) (x : Word32) :
    (u.setLvt l x).lvt l' = if l' = l then x else u.lvt l' := by
  cases l <;> cases l' <;> rfl

theorem ApicUnit.lvt_maskAllLvts (u : ApicUnit) (l : Lvt) : u.maskAllLvts.lvt l = u.lvt l ||| 1#32 <<< 16 := by
  cases l <;> rfl

theorem ApicUnit.lvt_regsReset (c : Config) (i : Nat) (full : Bool) (u : ApicUnit) (l : Lvt) :
    (u.regsReset c i full).lvt l = lvtMasked := by
  cases l <;> rfl

/-! ## The registers of a unit -/

/-- `ReservedOk` with a name for each of its parts. -/
structure ApicUnit.Reserved (u : ApicUnit) : Prop where
  base : u.base &&& ~~~0xFFFFFFD00#64 = 0
  tpr : u.tpr.extractLsb' 8 24 = 0#24
  ppr : u.ppr.extractLsb' 8 24 = 0#24
  apr : u.apr = 0
  xapic : u.mode = .xapic → u.ldr.extractLsb' 0 24 = 0#24 ∧ u.icrHi.extractLsb' 0 24 = 0#24
  dfr : u.dfr.extractLsb' 0 28 = BitVec.allOnes 28
  svr : u.svr &&& ~~~0x1FF#32 = 0
  esr : u.esr &&& ~~~0xE0#32 = 0
  icrLo : u.icrLo &&& ~~~0xCCFFF#32 = 0
  timerDcr : u.timerDcr &&& ~~~0xB#32 = 0
  lvt : ∀ l, u.lvt l &&& ~~~(lvtFields l) = 0

theorem reservedOk_iff {u : ApicUnit} : u.ReservedOk ↔ u.Reserved := by
  constructor
  · rintro ⟨hbase, htpr, hppr, hapr, hxapic, hdfr, hsvr, hesr, hicrLo, hdcr, htimer, hthermal, hperf, hlint0,
      hlint1, herror⟩
    refine ⟨hbase, htpr, hppr, hapr, hxapic, hdfr, hsvr, hesr, hicrLo, hdcr, fun l => ?_⟩
    cases l <;> assumption
  · intro h
    exact ⟨h.base, h.tpr, h.ppr, h.apr, h.xapic, h.dfr, h.svr, h.esr, h.icrLo, h.timerDcr, h.lvt .timer, h.lvt .thermal,
      h.lvt .perf, h.lvt .lint0, h.lvt .lint1, h.lvt .error⟩

namespace ApicUnit.Reserved

variable {u : ApicUnit}

theorem setPib (h : u.Reserved) (t : Trigger) (p : Pib) : (u.setPib t p).Reserved := by
  cases t <;> exact { h with }

theorem raiseSignal (h : u.Reserved) (sig : Signal) : (u.raiseSignal sig).Reserved := by
  cases sig <;> exact { h with }

theorem updatePpr (h : u.Reserved) : u.updatePpr.Reserved :=
  { h with ppr := pprValue_high_bits u.tpr u.isr }

/-- Any change of IRR and ISR, with PPR recomputed. -/
theorem service (h : u.Reserved) (irr isr : VecSet) : { u with irr := irr, isr := isr }.updatePpr.Reserved :=
  { h with ppr := pprValue_high_bits u.tpr isr }

/-- The ESR flags are the bits 7 to 5 (R25). -/
theorem orEsr (h : u.Reserved) {m : Word32} (hm : m &&& ~~~0xE0#32 = 0) : (u.orEsr m).Reserved :=
  { h with esr := outside_or h.esr hm }

theorem setLvt (h : u.Reserved) (l : Lvt) {x : Word32} (hx : x &&& ~~~(lvtFields l) = 0) : (u.setLvt l x).Reserved := by
  have hlvt : ∀ l', (u.setLvt l x).lvt l' &&& ~~~(lvtFields l') = 0 := by
    intro l'
    rw [u.lvt_setLvt]
    split
    · rename_i he
      rwa [he]
    · exact h.lvt l'
  cases l <;> exact { h with lvt := hlvt }

/-- An LVT write keeps bit 14 of the entry, which is clear in every entry but LINT0, and stores admitted bits (R243). -/
theorem writeLvt (h : u.Reserved) (l : Lvt) {x : Word32} (hx : x &&& ~~~(lvtFields l) = 0) :
    (u.writeLvt l x).Reserved := by
  have hstored := h.setLvt l (outside_or (outside_and 0x00004000#32 (h.lvt l)) hx)
  unfold ApicUnit.writeLvt
  split
  · exact hstored.orEsr (by decide)
  · exact hstored

theorem maskAllLvts (h : u.Reserved) : u.maskAllLvts.Reserved :=
  { h with
    lvt := fun l => by
      rw [u.lvt_maskAllLvts]
      exact outside_or (h.lvt l) (by cases l <;> decide) }

theorem writeSvr (h : u.Reserved) {x : Word32} (hx : x &&& ~~~0x1FF#32 = 0) : (u.writeSvr x).Reserved := by
  have hstored : { u with svr := x }.Reserved := { h with svr := hx }
  unfold ApicUnit.writeSvr
  split
  · exact hstored.maskAllLvts
  · exact hstored

theorem endLevel (h : u.Reserved) (v : Vec) : (u.endLevel v).Reserved := by
  have hlint0 : (u.endLevel v).lvtLint0 &&& ~~~(lvtFields .lint0) = 0 := by
    simp only [ApicUnit.endLevel]
    split
    · exact outside_and _ (h.lvt .lint0)
    · exact h.lvt .lint0
  exact { h.setLvt .lint0 hlint0 with }

theorem endInterrupt (h : u.Reserved) (v : Vec) : (u.endInterrupt v).Reserved := by
  have hended : (if hasVec u.tmr v then u.endLevel v else u).Reserved := by
    split
    · exact h.endLevel v
    · exact h
  exact { hended.service _ _ with }

theorem setInitialCount (h : u.Reserved) (now : Word64) (n : Word32) : (u.setInitialCount now n).Reserved := by
  unfold ApicUnit.setInitialCount
  split <;> exact { h with }

theorem expire (h : u.Reserved) (now : Word64) : (u.expire now).Reserved := by
  unfold ApicUnit.expire
  split <;> exact { h with }

end ApicUnit.Reserved

/-- `REGS_RESET` with a legal BASE (R292); the derived LDR of x2APIC mode is not one of xAPIC mode. -/
theorem ApicUnit.regsReset_reserved (c : Config) (i : Nat) (full : Bool) (u : ApicUnit) {b : Word64}
    (hb : b &&& ~~~0xFFFFFFD00#64 = 0) (hldr : modeOf b = .xapic → (u.regsReset c i full).ldr.extractLsb' 0 24 = 0#24) :
    { u.regsReset c i full with base := b }.Reserved where
  base := hb
  tpr := BitVec.extractLsb'_zero
  ppr := BitVec.extractLsb'_zero
  apr := rfl
  xapic := fun hm => ⟨hldr hm, BitVec.extractLsb'_zero⟩
  dfr := show (0xFFFFFFFF#32).extractLsb' 0 28 = BitVec.allOnes 28 by decide
  svr := show 0xFF#32 &&& ~~~0x1FF#32 = 0 by decide
  esr := BitVec.zero_and
  icrLo := BitVec.zero_and
  timerDcr := BitVec.zero_and
  lvt := fun l => (congrArg (· &&& _) (u.lvt_regsReset c i full l)).trans (lvtMasked_inside l)

theorem resetBase_inside {c : Config} (i : Nat) (hc : c.apicBaseAddr &&& ~~~0xFFFFFF000#64 = 0) :
    resetBase c i &&& ~~~0xFFFFFFD00#64 = 0 := by
  have hen : (if c.maxMode = .disabled then 0#64 else 1#64 <<< 11) &&& ~~~0xFFFFFFD00#64 = 0 := by split <;> decide
  have hbsp : (if i = 0 then 1#64 <<< 8 else 0#64) &&& ~~~0xFFFFFFD00#64 = 0 := by split <;> decide
  exact outside_or (outside_or (outside_trans hc (by decide)) hen) hbsp

theorem ApicUnit.changeBase_reserved {c : Config} {i : Nat} {u : ApicUnit} {x : Word64} (hu : u.Reserved)
    (h : baseRejected c u x = false) : (u.changeBase c i x).Reserved := by
  have hx : x &&& ~~~0xFFFFFFD00#64 = 0 := (baseRejected_eq_false h).1
  obtain ⟨-, he⟩ | ⟨hm, he⟩ | ⟨hm, he⟩ := ApicUnit.changeBase_cases i h <;> rw [he]
  · exact u.regsReset_reserved c i true hx fun _ => BitVec.extractLsb'_zero
  · exact { hu with base := hx, xapic := fun hm' => absurd (hm.symm.trans hm') (by decide) }
  · refine { hu with base := hx, xapic := fun (hm' : modeOf x = .xapic) => hu.xapic ?_ }
    rw [hm'] at hm
    exact (hm.resolve_left (by decide)).symm

theorem UnitMove.keeps_reserved {c : Config} {now : Word64} {i : Nat} {u u' : ApicUnit} (hc : ConfigMasksOk c)
    (h : UnitMove c now i u u') (hu : u.Reserved) : u'.Reserved := by
  have ⟨hldr, hsvr, hicrLo, hicrHi, hicr64, hdcr, _, _, _, _, _, _, hbase⟩ := hc
  cases h with
  | powerOn => exact { u.regsReset_reserved c i true (resetBase_inside i hbase) fun _ => BitVec.extractLsb'_zero with }
  | initReset =>
    refine u.regsReset_reserved c i false hu.base fun hm => ?_
    simp [ApicUnit.regsReset, show u.mode = _ from hm]
  | changeBase x hx => exact ApicUnit.changeBase_reserved hu hx
  | updatePpr => exact hu.updatePpr
  | acknowledge v => exact { hu.service (clearVec u.irr v) (setVec u.isr v) with }
  | endInterrupt v => exact hu.endInterrupt v
  | queueToService v => exact hu.service _ _
  | dequeueFromService v => exact hu.service _ _
  | sendError => exact hu.orEsr (by decide)
  | receiveError => exact hu.orEsr (by decide)
  | registerError => exact hu.orEsr (by decide)
  | clearEsr => exact { hu with esr := BitVec.zero_and }
  | stagePost v trig tag => exact { hu.setPib trig _ with }
  | setNotify trig => exact hu.setPib trig _
  | clearNotify trig => exact hu.setPib trig _
  | drainWord trig k => exact { hu.setPib trig _ with }
  | raiseSignal sig => exact hu.raiseSignal sig
  | latch => exact hu.setLvt .lint0 (outside_or (hu.lvt .lint0) (by decide))
  | setInitialCount n => exact hu.setInitialCount now n
  | expire _ => exact hu.expire now
  | writeTpr x =>
    have hstored : { u with tpr := (x.extractLsb' 0 8).setWidth 32 }.Reserved := { hu with tpr := byte_high_bits _ }
    exact { hstored.updatePpr with }
  | writeSvr x hx => exact hu.writeSvr (outside_trans hx hsvr)
  | storeLdr x _ hx =>
    exact { hu with xapic := fun hm => ⟨low_bits_of_top_byte (outside_trans hx hldr), (hu.xapic hm).2⟩ }
  | storeDfr x => exact { hu with dfr := dfr_low_bits x }
  | storeIcrHi x hx =>
    exact { hu with xapic := fun hm => ⟨(hu.xapic hm).1, low_bits_of_top_byte (outside_trans hx hicrHi)⟩ }
  | storeIcrLo x hx => exact { hu with icrLo := outside_trans hx hicrLo }
  | storeIcr64 x hm hx =>
    exact { hu with
      icrLo := icrLo_of_icr64 (outside_trans hx hicr64)
      xapic := fun hm' => absurd (hm.symm.trans hm') (by decide) }
  | writeLvt l x hx => exact hu.writeLvt l (outside_trans hx (lvtMask_inside hc l))
  | storeDcr x hx => exact { hu with timerDcr := outside_trans hx hdcr }
  | _ => exact { hu with }

/-- Settles O54: every move keeps every part of `Reserved`, since what it stores is inside a legal mask, a constant of the
reset, or made of bits that were inside. -/
theorem stepKeepsReserved : Obligations.StepKeepsReserved := by
  rintro s t ⟨hc, hs⟩ h
  unfold State.ReservedInv
  rw [(step_moves h).cfg]
  refine ⟨hc, step_keeps_all_units (fun _ _ _ hm hu => ?_) h hs⟩
  exact reservedOk_iff.mpr (hm.keeps_reserved hc (reservedOk_iff.mp hu))

end Sys2Proof.Machine
end

section
/-! Who writes BASE (O57): the list of the units' BASE values after every atomic step, every command and every input. -/

namespace Sys2Proof.Machine

/-- BASE of every unit, in the order of the units (R35). -/
def State.bases (s : State) : List Word64 := s.units.map ApicUnit.base

/-- The commands that may write BASE of unit i. -/
def writesBase (i : Nat) (c : Instr) : Prop := c = .reset i ∨ ∃ x, c = .setBase i x

theorem bases_getElem? {s : State} {i : Nat} {u : ApicUnit} (h : s.units[i]? = some u) : s.bases[i]? = some u.base := by
  rw [State.bases, List.getElem?_map, h, Option.map_some]

/-! ## The operations on the state -/

@[simp] theorem bases_setUnit (s : State) (i : Nat) (u : ApicUnit) : (s.setUnit i u).bases = s.bases.set i u.base :=
  List.map_set

theorem bases_setUnit_same {s : State} {i : Nat} {u u' : ApicUnit} (h : s.units[i]? = some u) (hb : u'.base = u.base) :
    (s.setUnit i u').bases = s.bases := by
  rw [bases_setUnit, hb]
  obtain ⟨hi, hget⟩ := List.getElem?_eq_some_iff.mp (bases_getElem? h)
  rw [← hget, List.set_getElem_self]

theorem bases_mapUnit (s : State) (i : Nat) {f : ApicUnit → ApicUnit} (hf : ∀ u, (f u).base = u.base) :
    (s.mapUnit i f).bases = s.bases := by
  unfold State.mapUnit
  split
  · rfl
  · exact bases_setUnit_same ‹_› (hf _)

theorem onUnit_bases {s : State} {i : Nat} {k : ApicUnit → State}
    (h : ∀ u, s.units[i]? = some u → (k u).bases = s.bases) : (onUnit s i k).bases = s.bases := by
  unfold onUnit
  split
  · rfl
  · exact h _ ‹_›

theorem planOnUnit_bases {s : State} {i : Nat} {k : ApicUnit → Plan}
    (h : ∀ u, s.units[i]? = some u → (k u).state.bases = s.bases) : (planOnUnit s i k).state.bases = s.bases := by
  unfold planOnUnit
  split
  · rfl
  · exact h _ ‹_›

theorem endOfInterrupt_bases {s : State} {i : Nat} {u : ApicUnit} (h : s.units[i]? = some u) :
    (s.endOfInterrupt i u).bases = s.bases := by
  unfold State.endOfInterrupt
  split
  · rfl
  · exact bases_setUnit_same (s := s.emit _) h (u.endInterrupt_sameSetup _).base

/-! ## The atomic steps and the plans -/

/-- No atomic step of a post, a fold or a send writes BASE (R152, R156, R200). -/
theorem atomicStep_bases (a : AtomicStep) (s : State) (p : Progress) : (atomicStep a s p).1.bases = s.bases := by
  cases a with
  | enableCheck t seen => rfl
  | postRead t v =>
    simp only [atomicStep]
    split
    · rfl
    · split
      · exact bases_mapUnit s t fun _ => rfl
      · split <;> rfl
  | postSet t v trig tag =>
    simp only [atomicStep]
    split
    · exact bases_mapUnit s t fun u => (u.setPib_sameSetup trig _).base
    · rfl
  | postNotify t trig =>
    simp only [atomicStep]
    split
    · exact bases_mapUnit (s.emit _) t fun u => (u.setPib_sameSetup trig _).base
    · rfl
  | raiseSignal t sig => exact bases_mapUnit s t fun u => (u.raiseSignal_sameSetup sig).base
  | emitEvent e => rfl
  | recordSendError t => exact bases_mapUnit s t fun _ => rfl
  | foldNotify t trig => exact bases_mapUnit s t fun u => (u.setPib_sameSetup trig _).base
  | foldWord t trig k =>
    refine bases_mapUnit s t fun u => ?_
    split <;> exact (u.setPib_sameSetup trig _).base
  | latchLint0 t =>
    simp only [atomicStep]
    split
    · exact bases_mapUnit s t fun _ => rfl
    · rfl

theorem runSteps_bases (as : List AtomicStep) (s : State) (p : Progress) : (runSteps as s p).1.bases = s.bases := by
  induction as generalizing s p with
  | nil => rfl
  | cons a rest ih => exact (ih _ _).trans (atomicStep_bases a s p)

theorem complete_bases (p : Plan) : p.complete.bases = p.state.bases :=
  runSteps_bases p.todo p.state p.progress

/-- No register write writes BASE (R235 to R246). -/
theorem writeEffect_bases {s : State} {i : Nat} {u : ApicUnit} (r : Reg) (x : Word32) (priv : Bool)
    (h : s.units[i]? = some u) : (writeEffect s i u r x priv).state.bases = s.bases := by
  cases r with
  | tpr => exact bases_setUnit_same h rfl
  | eoi => exact endOfInterrupt_bases h
  | svr => exact bases_setUnit_same h (u.writeSvr_sameSetup x).base
  | ldr => exact bases_setUnit_same h rfl
  | dfr => exact bases_setUnit_same h rfl
  | esr => exact bases_setUnit_same h rfl
  | icrHi => exact bases_setUnit_same h rfl
  | icrLo =>
    simp only [writeEffect, writeIcrLo, sendFromIcr_state]
    exact bases_setUnit_same h rfl
  | lvt l => exact bases_setUnit_same h (u.writeLvt_sameSetup l x).base
  | timerIcr => exact bases_setUnit_same h (u.setInitialCount_sameIdentity s.vt x).base
  | timerDcr => exact bases_setUnit_same h rfl
  | _ => rfl

theorem planWriteReg_bases (i : Nat) (off x : Word32) (priv : Bool) (s : State) :
    (planWriteReg i off x priv s).state.bases = s.bases := by
  refine planOnUnit_bases fun u hu => ?_
  split
  · rfl
  · split
    · rfl
    · split
      · rfl
      · split
        · rfl
        · exact writeEffect_bases _ _ priv hu

theorem planWriteMsr_bases (i : Nat) (idx : Word32) (x : Word64) (priv : Bool) (s : State) :
    (planWriteMsr i idx x priv s).state.bases = s.bases := by
  have hicr64 : ∀ u, s.units[i]? = some u → (writeIcr64 s i u x priv).state.bases = s.bases := by
    intro u hu
    rw [writeIcr64, sendFromIcr_state]
    exact bases_setUnit_same hu rfl
  refine planOnUnit_bases fun u hu => ?_
  split
  · rfl
  · split
    · rfl
    · split
      · rfl
      · split_ifs
        · rfl
        · rfl
        · rfl
        · rfl
        · exact hicr64 u hu
        · exact writeEffect_bases _ _ priv hu

theorem planLocalInterrupt_bases (i : Nat) (pin : Pin) (level priv : Bool) (s : State) :
    (planLocalInterrupt i pin level priv s).state.bases = s.bases := by
  have hfixed : ∀ u, (localFixed s i u pin priv).state = s := by
    intro u
    simp only [localFixed]
    split
    · rfl
    · exact sendPlan_state ..
  refine planOnUnit_bases fun u hu => ?_
  simp only []
  split
  · rfl
  · split
    · rfl
    · split
      · exact bases_setUnit_same hu rfl
      all_goals split <;> simp [hfixed, Plan.done]

/-- The first atomic step of a command of several steps does not write BASE. -/
theorem planOf_bases {c : Instr} {s : State} {p : Plan} (h : planOf c s = some p) : p.state.bases = s.bases := by
  cases c with
  | writeReg i off x priv => cases h; exact planWriteReg_bases i off x priv s
  | writeMsr i idx x priv => cases h; exact planWriteMsr_bases i idx x priv s
  | post t v trig tag => cases h; exact planOnUnit_bases fun _ _ => rfl
  | fold i => cases h; exact planOnUnit_bases fun _ _ => rfl
  | timerExpire i =>
    cases h
    refine planOnUnit_bases fun u hu => ?_
    split
    · exact bases_setUnit_same hu (u.expire_sameIdentity s.vt).base
    · rfl
  | sendIpiFromIcr i priv =>
    cases h
    exact planOnUnit_bases fun u _ => by rw [sendFromIcr_state]
  | busDeliver v dm d trig pol g m priv =>
    cases h
    unfold planBusDeliver
    split
    · rfl
    · rw [sendPlan_state]
  | localInterrupt i pin level priv => cases h; exact planLocalInterrupt_bases i pin level priv s
  | _ => cases h

/-- A command of several steps, run whole, is its plan run to its end. -/
theorem exec_of_planOf {c : Instr} {s : State} {p : Plan} (h : planOf c s = some p) : exec c s = .next p.complete := by
  cases c <;> cases h <;> rfl

/-! ## The commands and the inputs -/

/-- What a command can do to the BASE values: nothing, or `RESET` and `SET_BASE` write that of their unit. -/
theorem exec_bases {c : Instr} {s t : State} (h : exec c s = .next t) :
    t.bases = s.bases ∨ ∃ i b, writesBase i c ∧ t.bases = s.bases.set i b := by
  cases hp : planOf c s with
  | some p =>
    rw [exec_of_planOf hp] at h
    cases h
    exact .inl ((complete_bases p).trans (planOf_bases hp))
  | none =>
    cases c with
    | reset i =>
      cases h
      unfold onUnit
      split
      · exact .inl rfl
      · exact .inr ⟨i, _, .inl rfl, bases_setUnit s i _⟩
    | setBase i x =>
      cases h
      unfold onUnit
      split
      · exact .inl rfl
      · dsimp only
        split
        · exact .inl rfl
        · exact .inr ⟨i, _, .inr ⟨x, rfl⟩, bases_setUnit s i _⟩
    | init i => cases h; exact .inl (onUnit_bases fun u hu => bases_setUnit_same hu rfl)
    | readReg i off =>
      cases h
      refine .inl (onUnit_bases fun u hu => ?_)
      split
      · rfl
      · split
        · rfl
        · split
          · exact bases_setUnit_same hu rfl
          · rfl
    | readMsr i idx =>
      cases h
      refine .inl (onUnit_bases fun u hu => ?_)
      split
      · rfl
      · split
        · rfl
        · split
          · rfl
          · split_ifs <;> rfl
    | getBase i => cases h; exact .inl (onUnit_bases fun _ _ => rfl)
    | updatePpr i => cases h; exact .inl (onUnit_bases fun u hu => bases_setUnit_same hu rfl)
    | signalIfPending i => cases h; exact .inl (onUnit_bases fun u hu => bases_setUnit_same hu rfl)
    | getNext i =>
      cases h
      refine .inl (onUnit_bases fun u hu => ?_)
      split
      · rfl
      · split
        · rfl
        · split
          · rfl
          · split
            · rfl
            · exact bases_setUnit_same hu rfl
    | eoi i x => cases h; exact .inl (onUnit_bases fun u hu => endOfInterrupt_bases hu)
    | queueToService i v => cases h; exact .inl (onUnit_bases fun u hu => bases_setUnit_same hu rfl)
    | dequeueFromService i v => cases h; exact .inl (onUnit_bases fun u hu => bases_setUnit_same hu rfl)
    | setInitialCount i n =>
      cases h
      exact .inl (onUnit_bases fun u hu => bases_setUnit_same hu (u.setInitialCount_sameIdentity s.vt n).base)
    | getCurrentCount i => cases h; exact .inl (onUnit_bases fun _ _ => rfl)
    | stopTimer i => cases h; exact .inl (onUnit_bases fun u hu => bases_setUnit_same hu rfl)
    | _ => cases hp

theorem begin_bases (a : Agent) (p : Plan) : (State.begin a p).bases = p.state.bases := by
  unfold State.begin
  split
  · exact complete_bases p
  · rfl

theorem advanceCommand_bases (c : InFlight) (s : State) : (advanceCommand c s).bases = s.bases := by
  unfold advanceCommand
  split
  · rfl
  · simp only []
    split <;> exact atomicStep_bases _ s c.progress

theorem answerOutcome_exec_bases {a : Agent} {c : Instr} {s t : State} (h : answerOutcome a (exec c s) = .next t) :
    t.bases = s.bases ∨ ∃ i b, writesBase i c ∧ t.bases = s.bases.set i b := by
  obtain ⟨r, hx, rfl⟩ := answerOutcome_next h
  exact exec_bases (t := r) hx

theorem startCommand_bases {a : Agent} {c : Instr} {s t : State} (h : startCommand a s c = .next t) :
    t.bases = s.bases ∨ ∃ i b, writesBase i c ∧ t.bases = s.bases.set i b := by
  unfold startCommand at h
  split at h
  · rename_i p hp
    cases h
    exact .inl ((begin_bases a p).trans (planOf_bases hp))
  · exact answerOutcome_exec_bases h

/-- What an input can do to the BASE values. -/
theorem runInput_bases {inp : Input} {s t : State} (h : runInput inp s = .next t) :
    t.bases = s.bases ∨ ∃ c i b, inp.command = some c ∧ writesBase i c ∧ t.bases = s.bases.set i b := by
  cases inp with
  | issue a w =>
    obtain ⟨-, ⟨_, -, rfl⟩ | ⟨c, hc, -, hr⟩⟩ := takeWord_next h
    · exact .inl rfl
    · exact (answerOutcome_exec_bases hr).imp_right fun ⟨i, b, hw⟩ => ⟨c, i, b, congrArg Except.toOption hc, hw⟩
  | start a w =>
    obtain ⟨-, ⟨_, -, rfl⟩ | ⟨c, hc, -, hr⟩⟩ := takeWord_next h
    · exact .inl rfl
    · exact (startCommand_bases hr).imp_right fun ⟨i, b, hw⟩ => ⟨c, i, b, congrArg Except.toOption hc, hw⟩
  | advance a =>
    simp only [runInput] at h
    split at h
    · cases h
    · cases h
      exact .inl (advanceCommand_bases _ s)
  | time vt =>
    simp only [runInput] at h
    split at h
    · cases h
      exact .inl rfl
    · cases h
  | takeNmi i => cases h; exact .inl (bases_mapUnit s i fun _ => rfl)
  | takeSmi i => cases h; exact .inl (bases_mapUnit s i fun _ => rfl)

/-- Settles O57: a step that changes BASE of a unit took a command that writes BASE of some unit, and that command writes
no other unit's. -/
theorem onlySetBaseAndResetWriteBase : Obligations.OnlySetBaseAndResetWriteBase := by
  intro s t i u u' h hu hu' hne
  have hs := bases_getElem? hu
  have ht := bases_getElem? hu'
  have hchanged : t.bases[i]? ≠ s.bases[i]? := by
    rw [hs, ht]
    simpa using hne
  unfold step at h
  split at h
  · cases h
    exact absurd rfl hchanged
  · rename_i inp rest hinputs
    obtain he | ⟨c, j, b, hc, hw, he⟩ := runInput_bases h
    · exact absurd (congrArg (·[i]?) he) hchanged
    · have hji : j = i := by
        by_contra hji
        exact hchanged (by rw [he, List.getElem?_set_ne hji]; rfl)
      subst hji
      exact ⟨c, by rwa [hinputs], hw⟩

end Sys2Proof.Machine
end

section
/-! What the port turns away (O14): the tests that come before the unit, the mode and the register are looked at, each said
once for reads and writes. -/

namespace Sys2Proof.Machine

/-! ## A unit that does not exist -/

theorem onUnit_missing {s : State} {i : Nat} (h : s.units.length ≤ i) (k : ApicUnit → State) :
    onUnit s i k = s.respond .contractViolation := by
  rw [onUnit, List.getElem?_eq_none h]

theorem planOnUnit_missing {s : State} {i : Nat} (h : s.units.length ≤ i) (k : ApicUnit → Plan) :
    planOnUnit s i k = Plan.done s .contractViolation := by
  rw [planOnUnit, List.getElem?_eq_none h]

/-- Every command that addresses a unit looks it up first (R81). -/
theorem exec_missing_unit {s : State} {c : Instr} {i : Nat} (hc : c.unit? = some i) (h : s.units.length ≤ i) :
    exec c s = .next (s.respond .contractViolation) := by
  have hplan : ∀ k, Host.Outcome.next (planOnUnit s i k).complete =
      (.next (s.respond .contractViolation) : Host.Outcome State Fault Refusal) := by
    intro k
    rw [planOnUnit_missing h, Plan.done_complete]
  cases c <;> cases hc
  case writeReg | writeMsr | post | fold | timerExpire | sendIpiFromIcr | localInterrupt => exact hplan _
  all_goals exact congrArg Host.Outcome.next (onUnit_missing h _)

/-! ## The offset and the mode -/

theorem badOffset_iff (off : Word32) : badOffset off = true ↔ off.toNat % 16 ≠ 0 ∨ 0x3F0 < off.toNat := by
  have hlow : off.extractLsb' 0 4 = 0 ↔ off.toNat % 16 = 0 := by
    rw [← BitVec.toNat_inj]
    simp [BitVec.extractLsb'_toNat]
  simp only [badOffset, Bool.or_eq_true, decide_eq_true_eq, ne_eq, hlow]

theorem badOffset_eq_false {off : Word32} (h : off.toNat % 16 = 0) (h' : off.toNat ≤ 0x3F0) : badOffset off = false := by
  rw [← Bool.not_eq_true, badOffset_iff]
  omega

/-- A bad offset is turned away whether the unit exists or not (R59, R81). -/
theorem readReg_badOffset {off : Word32} (h : badOffset off = true) (s : State) (i : Nat) :
    exec (.readReg i off) s = .next (s.respond .contractViolation) := by
  cases hu : s.units[i]? <;> simp [exec, execReadReg, onUnit, hu, h]

theorem writeReg_badOffset {off : Word32} (h : badOffset off = true) (s : State) (i : Nat) (x : Word32) (p : Bool) :
    exec (.writeReg i off x p) s = .next (s.respond .contractViolation) := by
  cases hu : s.units[i]? <;> simp [exec, execWriteReg, planWriteReg, planOnUnit, hu, h]

section
variable {s : State} {i : Nat} {u : ApicUnit} {off : Word32} (hu : s.units[i]? = some u) (hb : badOffset off = false)
include hu hb

/-- Outside xAPIC mode the page is not the unit's (R51). -/
theorem readReg_notClaimed (hm : u.mode ≠ .xapic) : exec (.readReg i off) s = .next (s.respond .notClaimed) := by
  simp [exec, execReadReg, onUnit, hu, hb, hm]

theorem writeReg_notClaimed (hm : u.mode ≠ .xapic) (x : Word32) (p : Bool) :
    exec (.writeReg i off x p) s = .next (s.respond .notClaimed) := by
  simp [exec, execWriteReg, planWriteReg, planOnUnit, hu, hb, hm]

end

/-! ## Read-only registers -/

/-- An MMIO write of a read-only register is ignored (R222, R247). -/
theorem writeReg_readOnly {s : State} {i : Nat} {u : ApicUnit} {off x : Word32} {r : Reg} {p : Bool}
    (h : MmioReaches s i u) (hb : badOffset off = false) (hr : standardRegMap.lookup off.toNat = some r)
    (ha : r.mmioAccess = .ro) : exec (.writeReg i off x p) s = .next (s.respond .ok) := by
  obtain ⟨hu, hm, hs⟩ := h
  simp [exec, execWriteReg, planWriteReg, planOnUnit, hu, hm, regAt_standard hs, hb, hr, ha]

/-- Whether an offset is one of a register that the MMIO port only reads (R53). -/
def readOnlyAt (off : Nat) : Bool := (standardRegMap.lookup off).any fun r => decide (r.mmioAccess = .ro)

theorem readOnlyAt_fragment : ∀ k < 24, readOnlyAt (0x100 + 16 * k) = true := by decide

/-- The read-only offsets: five single registers, and the fragments of ISR, TMR and IRR (R53, R54). -/
theorem readOnlyAt_of_offset {off : Nat}
    (h : off ∈ [0x020, 0x030, 0x090, 0x0A0, 0x390] ∨ (0x100 ≤ off ∧ off ≤ 0x270 ∧ off % 16 = 0)) :
    readOnlyAt off = true ∧ off % 16 = 0 ∧ off ≤ 0x3F0 := by
  rcases h with h | ⟨hlo, hhi, hmod⟩
  · have hall : ∀ n ∈ [0x020, 0x030, 0x090, 0x0A0, 0x390], readOnlyAt n = true ∧ n % 16 = 0 ∧ n ≤ 0x3F0 := by decide
    exact hall off h
  · obtain ⟨k, rfl⟩ : ∃ k, off = 0x100 + 16 * k := ⟨(off - 0x100) / 16, by omega⟩
    exact ⟨readOnlyAt_fragment k (by omega), hmod, by omega⟩

/-! ## The statement -/

/-- Settles O14, with one lemma for each thing the port turns away. -/
theorem portTurnsAway : Obligations.PortTurnsAway := by
  refine ⟨fun s i u off x p hu hmod hle hm => ?_, fun s i off x p hbad => ?_,
    fun s c i hc hi => exec_missing_unit hc hi, fun s i u off x p hreach hoff => ?_⟩
  · have hb := badOffset_eq_false hmod hle
    exact ⟨readReg_notClaimed hu hb hm, writeReg_notClaimed hu hb hm x p⟩
  · have hb := (badOffset_iff off).mpr hbad
    exact ⟨readReg_badOffset hb s i, writeReg_badOffset hb s i x p⟩
  · obtain ⟨hro, hmod, hle⟩ := readOnlyAt_of_offset hoff
    obtain ⟨r, hr, ha⟩ : ∃ r, standardRegMap.lookup off.toNat = some r ∧ r.mmioAccess = .ro := by
      simpa [readOnlyAt, Option.any_eq_true] using hro
    exact writeReg_readOnly hreach (badOffset_eq_false hmod hle) hr ha

end Sys2Proof.Machine
end

section
/-! The page primitives (O11). What a register reads after a store to it or to another is said register by register; that no
register stands at two offsets of the default map carries it to the page. The bytes of the page are cut from its words. -/

namespace Sys2Proof.Machine

/-! ## Fragments of a 256-bit register -/

@[simp] theorem fragment_setFragment_same (r : VecSet) (k : Fin 8) (x : Word32) : fragment (setFragment r k x) k = x := by
  refine BitVec.eq_of_getLsbD_eq fun n hn => ?_
  have hk := k.isLt
  simp only [fragment, setFragment, BitVec.getLsbD_extractLsb', BitVec.getLsbD_or, BitVec.getLsbD_and, BitVec.getLsbD_not,
    BitVec.getLsbD_shiftLeft, BitVec.getLsbD_setWidth, BitVec.getLsbD_allOnes]
  have h1 : 32 * k.val + n < 256 := by omega
  have h2 : n < 256 := by omega
  simp [hn, h1, h2]

/-- A store into one fragment leaves the others (R54). -/
theorem fragment_setFragment_other (r : VecSet) {k k' : Fin 8} (h : k' ≠ k) (x : Word32) :
    fragment (setFragment r k x) k' = fragment r k' := by
  refine BitVec.eq_of_getLsbD_eq fun n hn => ?_
  have hk := k.isLt
  have hk' := k'.isLt
  have hne : k'.val ≠ k.val := fun he => h (Fin.ext he)
  have hpos : 32 * k'.val + n < 256 := by omega
  simp only [fragment, setFragment, BitVec.getLsbD_extractLsb', BitVec.getLsbD_or, BitVec.getLsbD_and, BitVec.getLsbD_not,
    BitVec.getLsbD_shiftLeft, BitVec.getLsbD_setWidth, BitVec.getLsbD_allOnes, hn, hpos, decide_true, Bool.true_and]
  rcases Nat.lt_or_gt_of_ne hne with hlt | hgt
  · have hbelow : 32 * k'.val + n < 32 * k.val := by omega
    simp [hbelow]
  · have habove : ¬ 32 * k'.val + n < 32 * k.val := by omega
    have hout : ¬ 32 * k'.val + n - 32 * k.val < 32 := by omega
    have hx : x.getLsbD (32 * k'.val + n - 32 * k.val) = false := BitVec.getLsbD_of_ge _ _ (by omega)
    simp [habove, hout, hx]

/-! ## The registers behind the page -/

/-- Whether a register has storage of its own: EOI has no value and TIMER_CCR is computed (R55, R56). -/
def hasStorage (r : Reg) : Bool := decide (r ≠ .eoi ∧ r ≠ .timerCcr)

theorem readReg_storeReg_same (u : ApicUnit) (now : Word64) (x : Word32) {r : Reg} (h : hasStorage r = true) :
    (u.storeReg r x).readReg now r = x := by
  obtain ⟨heoi, hccr⟩ := of_decide_eq_true h
  cases r with
  | eoi => exact absurd rfl heoi
  | timerCcr => exact absurd rfl hccr
  | isr k => exact fragment_setFragment_same ..
  | tmr k => exact fragment_setFragment_same ..
  | irr k => exact fragment_setFragment_same ..
  | lvt l => cases l <;> rfl
  | _ => rfl

theorem lvt_setLvt_other (u : ApicUnit) {l l' : Lvt} (h : l' ≠ l) (x : Word32) : (u.setLvt l x).lvt l' = u.lvt l' := by
  cases l <;> cases l' <;> first | rfl | contradiction

/-- A store leaves every other register but TIMER_CCR, which is computed from several (R55, R174). -/
theorem readReg_storeReg_other (u : ApicUnit) (now : Word64) (x : Word32) {r r' : Reg} (h : r' ≠ r)
    (hccr : r' ≠ .timerCcr) : (u.storeReg r x).readReg now r' = u.readReg now r' := by
  cases r with
  | isr k =>
    cases r' with
    | isr k' => exact fragment_setFragment_other u.isr (fun he => h (congrArg Reg.isr he)) x
    | timerCcr => exact absurd rfl hccr
    | _ => rfl
  | tmr k =>
    cases r' with
    | tmr k' => exact fragment_setFragment_other u.tmr (fun he => h (congrArg Reg.tmr he)) x
    | timerCcr => exact absurd rfl hccr
    | _ => rfl
  | irr k =>
    cases r' with
    | irr k' => exact fragment_setFragment_other u.irr (fun he => h (congrArg Reg.irr he)) x
    | timerCcr => exact absurd rfl hccr
    | _ => rfl
  | lvt l =>
    cases r' with
    | lvt l' => exact lvt_setLvt_other u (fun he => h (congrArg Reg.lvt he)) x
    | timerCcr => exact absurd rfl hccr
    | _ => cases l <;> rfl
  | _ =>
    cases r' <;> first | rfl | contradiction

/-! ## The default register map -/

theorem mem_of_lookup {l : List (Nat × Reg)} {off : Nat} {r : Reg} (h : l.lookup off = some r) : (off, r) ∈ l := by
  obtain ⟨l₁, l₂, rfl, -⟩ := List.lookup_eq_some_iff.mp h
  simp

/-- No register stands at two offsets of the default map (R53). -/
theorem standardRegMap_injective {off off' : Nat} {r : Reg} (h : standardRegMap.lookup off = some r)
    (h' : standardRegMap.lookup off' = some r) : off = off' := by
  have hnodup : (standardRegMap.map Prod.snd).Nodup := by decide
  exact congrArg Prod.fst (List.inj_on_of_nodup_map hnodup (mem_of_lookup h) (mem_of_lookup h') rfl)

theorem standardRegMap_eoi : standardRegMap.lookup 0x0B0 = some .eoi := by decide

theorem standardRegMap_timerCcr : standardRegMap.lookup 0x390 = some .timerCcr := by decide

theorem standardRegMap_undefined : ∀ off ∈ undefinedOffsets, standardRegMap.lookup off = none := by decide

/-- The offsets of the readable registers do not depend on their values. -/
theorem pageRows_offsets (u : ApicUnit) (ccr : Word32) :
    (pageRows u ccr).map Prod.fst = (pageRows ApicUnit.allocated 0).map Prod.fst := by
  simp only [pageRows, List.map_append, List.map_cons, List.map_map, Function.comp_def]

/-- At the offset of a readable register other than TIMER_CCR stands a register with storage (R53). -/
theorem lookup_of_mem_pageRows {u : ApicUnit} {ccr : Word32} {row : Nat × Word32} (h : row ∈ pageRows u ccr)
    (hccr : row.1 ≠ 0x390) : ∃ r, standardRegMap.lookup row.1 = some r ∧ hasStorage r = true := by
  have hoffsets : ∀ off ∈ (pageRows ApicUnit.allocated 0).map Prod.fst, off ≠ 0x390 →
      (standardRegMap.lookup off).any hasStorage = true := by decide
  have hrow := hoffsets row.1 (pageRows_offsets u ccr ▸ List.mem_map_of_mem h) hccr
  simpa [Option.any_eq_true] using hrow

/-! ## The page primitives -/

section
variable {c : Config} (hc : c.regMap = standardRegMap) (now : Word64) (u : ApicUnit) (x : Word32)
include hc

theorem pageRead32_defined {off : Nat} {r : Reg} (h : standardRegMap.lookup off = some r) :
    u.pageRead32 c now off = u.readReg now r := by
  simp [ApicUnit.pageRead32, Config.regAt, hc, h]

theorem pageRead32_undefined {off : Nat} (h : standardRegMap.lookup off = none) : u.pageRead32 c now off = 0 := by
  simp [ApicUnit.pageRead32, Config.regAt, hc, h]

theorem pageWrite32_defined {off : Nat} {r : Reg} (h : standardRegMap.lookup off = some r) :
    u.pageWrite32 c off x = u.storeReg r x := by
  simp [ApicUnit.pageWrite32, Config.regAt, hc, h]

theorem pageWrite32_undefined {off : Nat} (h : standardRegMap.lookup off = none) : u.pageWrite32 c off x = u := by
  simp [ApicUnit.pageWrite32, Config.regAt, hc, h]

/-- A raw write leaves what every other offset reads, TIMER_CCR apart: no register stands at two offsets. -/
theorem pageRead32_pageWrite32_other {off off' : Nat} (h : off' ≠ off) (hccr : off' ≠ 0x390) :
    (u.pageWrite32 c off x).pageRead32 c now off' = u.pageRead32 c now off' := by
  cases hr : standardRegMap.lookup off with
  | none => rw [pageWrite32_undefined hc u x hr]
  | some r =>
    rw [pageWrite32_defined hc u x hr]
    cases hr' : standardRegMap.lookup off' with
    | none => rw [pageRead32_undefined hc now _ hr', pageRead32_undefined hc now _ hr']
    | some r' =>
      have hne : r' ≠ r := fun he => h (standardRegMap_injective hr' (he ▸ hr))
      have hne' : r' ≠ .timerCcr := fun he => hccr (standardRegMap_injective hr' (he ▸ standardRegMap_timerCcr))
      rw [pageRead32_defined hc now _ hr', pageRead32_defined hc now _ hr', readReg_storeReg_other u now x hne hne']

end

/-! ## The bytes of the page -/

theorem pageByte_in_register (c : Config) (now : Word64) (u : ApicUnit) {off k : Nat} (hoff : off % 16 = 0)
    (hlt : off < 4096) (hk : k < 4) :
    u.pageByte c now (off + k) = (u.pageRead32 c now off).extractLsb' (8 * k) 8 := by
  have hmod : (off + k) % 16 = k := by omega
  have hbase : off + k - k = off := by omega
  have hin : off + k < 4096 := by omega
  simp [ApicUnit.pageByte, hmod, hbase, hin, hk]

/-- The four bytes of a word, most significant first, are the word. -/
theorem bytes_append (x : Word32) :
    x.extractLsb' 24 8 ++ x.extractLsb' 16 8 ++ x.extractLsb' 8 8 ++ x.extractLsb' 0 8 = x := by
  rw [BitVec.extractLsb'_append_extractLsb'_eq_extractLsb' (show 24 = 16 + 8 from rfl),
    BitVec.extractLsb'_append_extractLsb'_eq_extractLsb' (show 16 = 8 + 8 from rfl),
    BitVec.extractLsb'_append_extractLsb'_eq_extractLsb' (show 8 = 0 + 8 from rfl)]
  exact BitVec.extractLsb'_eq_self

/-- The four bytes at an offset are its value (R57). -/
theorem pageBytes_eq_pageRead32 (c : Config) (now : Word64) (u : ApicUnit) {off : Nat} (hoff : off % 16 = 0)
    (hlt : off < 4096) :
    u.pageByte c now (off + 3) ++ u.pageByte c now (off + 2) ++ u.pageByte c now (off + 1) ++ u.pageByte c now off =
      u.pageRead32 c now off := by
  have hbyte : ∀ k, k < 4 → u.pageByte c now (off + k) = (u.pageRead32 c now off).extractLsb' (8 * k) 8 :=
    fun k hk => pageByte_in_register c now u hoff hlt hk
  rw [hbyte 3 (by omega), hbyte 2 (by omega), hbyte 1 (by omega), show off = off + 0 from rfl, hbyte 0 (by omega)]
  exact bytes_append _

/-! ## The statement -/

/-- Settles O11: the read after a write by `readReg_storeReg_same`, the frame by `pageRead32_pageWrite32_other`, the bytes by
`pageBytes_eq_pageRead32`. -/
theorem pageReadsAfterWrite : Obligations.PageReadsAfterWrite := by
  intro c now u x hc
  refine ⟨?_, fun off off' h hccr => pageRead32_pageWrite32_other hc now u x h hccr, ?_, ?_, ?_, ?_⟩
  · intro row hrow hccr
    obtain ⟨r, hr, hstorage⟩ := lookup_of_mem_pageRows hrow hccr
    rw [pageWrite32_defined hc u x hr, pageRead32_defined hc now _ hr, readReg_storeReg_same u now x hstorage]
  · rintro off (rfl | rfl | h)
    · exact pageWrite32_defined hc u x standardRegMap_eoi
    · exact pageWrite32_defined hc u x standardRegMap_timerCcr
    · exact pageWrite32_undefined hc u x (standardRegMap_undefined off h)
  · rintro off (rfl | h)
    · exact pageRead32_defined hc now u standardRegMap_eoi
    · exact pageRead32_undefined hc now u (standardRegMap_undefined off h)
  · exact fun off hoff hlt => pageBytes_eq_pageRead32 c now u hoff hlt
  · intro a ha
    rw [ApicUnit.pageByte, if_neg (by omega)]

end Sys2Proof.Machine
end

section
/-! Two posts commute (O38): what a whole post does to the units and which wakes it emits, then the commutation unit by
unit. A post changes ESR, one bitmap and the tag of its vector, each by adding to what is there. -/

namespace Sys2Proof.Machine

/-! ## A whole post -/

/-- The wakes of a whole post to unit t (R152). -/
def postWakesOf (us : List ApicUnit) (t : Nat) (v : Vec) (trig : Trigger) : List Event :=
  if us[t]?.any (·.postWakes v trig) then [.wake t] else []

/-- A post run whole, to a unit that exists or not (R81, R152). -/
theorem exec_post (s : State) (t : Nat) (v : Vec) (trig : Trigger) (tag : Word32) :
    ∃ a, exec (.post t v trig tag) s = .next a ∧ a.units = s.units.modify t (·.posted v trig tag) ∧
      a.out = s.out ++ postWakesOf s.units t v trig := by
  refine ⟨(planPost t v trig tag s).complete, rfl, ?_⟩
  cases h : s.units[t]? with
  | none =>
    simp [planPost, planOnUnit, h, postWakesOf, List.modify_eq_self (List.getElem?_eq_none_iff.mp h)]
  | some u =>
    have hsteps := (runSteps_post v trig tag false h).1
    simp only [planPost, planOnUnit, h, Plan.complete, State.respond_units, State.respond_out, hsteps, postWakesOf,
      Option.any_some, and_true]
    rw [List.modify_eq_set_getElem?, h]
    rfl

/-! ## The tags: an OR into one slot -/

/-- `TAG[v] <- TAG[v] | g`, what a staged post does to the tags (R152). -/
def TagStore.orInto (t : TagStore) (v : Nat) (g : Word32) : TagStore := t.write v (t.read v ||| g)

theorem TagStore.wf_orInto {t : TagStore} {v : Nat} (g : Word32) (hv : v < 256) (h : t.wf = true) :
    (t.orInto v g).wf = true :=
  TagStore.write_wf hv h

theorem TagStore.read_orInto {t : TagStore} (h : t.wf = true) (v : Nat) (g : Word32) (k : Nat) :
    (t.orInto v g).read k = t.read k ||| if k = v then g else 0 := by
  by_cases hk : k = v
  · subst hk
    rw [TagStore.orInto, TagStore.read_write_same h, if_pos rfl]
  · rw [TagStore.orInto, TagStore.read_write_other (Ne.symm hk), if_neg hk]
    simp

/-- Two ORs into a canonical store commute: the stores read the same everywhere. -/
theorem TagStore.orInto_comm {t : TagStore} (h : t.wf = true) {v w : Nat} (hv : v < 256) (hw : w < 256)
    (g g' : Word32) : (t.orInto v g).orInto w g' = (t.orInto w g').orInto v g := by
  have hwfv : (t.orInto v g).wf = true := wf_orInto g hv h
  have hwfw : (t.orInto w g').wf = true := wf_orInto g' hw h
  refine TagStore.eq_of_read (lo := 0) (wf_orInto g' hw hwfv) (wf_orInto g hv hwfw) fun k => ?_
  rw [read_orInto hwfv, read_orInto hwfw, read_orInto h, read_orInto h, BitVec.or_assoc,
    BitVec.or_assoc, BitVec.or_comm (if k = v then g else 0)]

theorem setVec_comm (r : VecSet) (v w : Vec) : setVec (setVec r v) w = setVec (setVec r w) v := by
  rw [setVec, setVec, setVec, setVec, BitVec.or_assoc, BitVec.or_assoc, BitVec.or_comm (1#256 <<< v.toNat)]

/-! ## What a post does to a unit, by its outcome -/

/-- Whether a post of `v` is staged: the vector is legal and not pending (R152). -/
def ApicUnit.stages (u : ApicUnit) (v : Vec) : Bool := decide (15 < v.toNat) && !hasVec u.irr v

/-- What a staged post leaves (R152). -/
def ApicUnit.stage (u : ApicUnit) (v : Vec) (trig : Trigger) (tag : Word32) : ApicUnit :=
  (u.stagePost v trig tag).setNotify trig

/-- The three outcomes of a post (R152). -/
theorem posted_eq (u : ApicUnit) (v : Vec) (trig : Trigger) (tag : Word32) :
    u.posted v trig tag =
      if v.toNat ≤ 15 then u.orEsr esrReceiveIllegal else if hasVec u.irr v then u else u.stage v trig tag := by
  cases trig <;> rfl

theorem posted_of_stages {u : ApicUnit} {v : Vec} (h : u.stages v = true) (trig : Trigger) (tag : Word32) :
    u.posted v trig tag = u.stage v trig tag := by
  obtain ⟨hv, hp⟩ : 15 < v.toNat ∧ hasVec u.irr v = false := by simpa [ApicUnit.stages] using h
  rw [posted_eq, if_neg (Nat.not_le.mpr hv), hp, if_neg Bool.false_ne_true]

@[simp] theorem stage_irr (u : ApicUnit) (v : Vec) (trig : Trigger) (tag : Word32) : (u.stage v trig tag).irr = u.irr := by
  cases trig <;> rfl

@[simp] theorem posted_irr (u : ApicUnit) (v : Vec) (trig : Trigger) (tag : Word32) :
    (u.posted v trig tag).irr = u.irr := by
  rw [posted_eq]
  split_ifs <;> simp

@[simp] theorem posted_stages (u : ApicUnit) (v w : Vec) (trig : Trigger) (tag : Word32) :
    (u.posted v trig tag).stages w = u.stages w := by
  rw [ApicUnit.stages, posted_irr, ApicUnit.stages]

theorem stage_orEsr (u : ApicUnit) (v : Vec) (trig : Trigger) (tag m : Word32) :
    (u.orEsr m).stage v trig tag = (u.stage v trig tag).orEsr m := by
  cases trig <;> rfl

/-- Two staged posts commute, to the same bitmap or not. -/
theorem stage_comm {u : ApicUnit} (h : TagStore.wf u.tag = true) (v w : Vec) (trig trig' : Trigger) (g g' : Word32) :
    (u.stage v trig g).stage w trig' g' = (u.stage w trig' g').stage v trig g := by
  have htag : (u.tag.orInto v.toNat g).orInto w.toNat g' = (u.tag.orInto w.toNat g').orInto v.toNat g :=
    TagStore.orInto_comm h v.isLt w.isLt g g'
  unfold TagStore.orInto at htag
  cases trig <;> cases trig' <;>
    simp only [ApicUnit.stage, ApicUnit.stagePost, ApicUnit.setNotify, ApicUnit.pib, ApicUnit.setPib, htag,
      setVec_comm _ v w]

theorem posted_orEsr (u : ApicUnit) (v : Vec) (trig : Trigger) (tag m : Word32) :
    (u.orEsr m).posted v trig tag = (u.posted v trig tag).orEsr m := by
  have hor : (u.orEsr m).orEsr esrReceiveIllegal = (u.orEsr esrReceiveIllegal).orEsr m := by
    simp only [ApicUnit.orEsr, BitVec.or_assoc, BitVec.or_comm m]
  rw [posted_eq, posted_eq u, ApicUnit.orEsr_irr, hor, stage_orEsr]
  split_ifs <;> rfl

/-- A post that is not staged commutes with any other: it ORs a flag into ESR or changes nothing. -/
theorem posted_comm_of_not_stages {u : ApicUnit} {v : Vec} (h : u.stages v = false) (w : Vec) (trig trig' : Trigger)
    (g g' : Word32) : (u.posted v trig g).posted w trig' g' = (u.posted w trig' g').posted v trig g := by
  rw [posted_eq u v, posted_eq _ v trig, posted_irr]
  split_ifs with hv hp
  · exact posted_orEsr u w trig' g' esrReceiveIllegal
  · rfl
  · simp [ApicUnit.stages, hp, Nat.lt_of_not_le hv] at h

/-- Two posts to one unit commute: neither changes IRR, so each has the outcome it has alone. -/
theorem posted_comm {u : ApicUnit} (h : TagStore.wf u.tag = true) (v w : Vec) (trig trig' : Trigger) (g g' : Word32) :
    (u.posted v trig g).posted w trig' g' = (u.posted w trig' g').posted v trig g := by
  cases hv : u.stages v with
  | false => exact posted_comm_of_not_stages hv w trig trig' g g'
  | true =>
    cases hw : u.stages w with
    | false => exact (posted_comm_of_not_stages hw v trig' trig g' g).symm
    | true =>
      rw [posted_of_stages ((posted_stages ..).trans hw), posted_of_stages hv,
        posted_of_stages ((posted_stages ..).trans hv), posted_of_stages hw]
      exact stage_comm h v w trig trig' g g'

/-! ## The wakes -/

theorem postWakes_eq (u : ApicUnit) (v : Vec) (trig : Trigger) :
    u.postWakes v trig = (u.stages v && !(u.pib trig).notify) := by
  cases trig <;> rfl

/-- A staged post sets the flag of its bitmap; any other post sets none (R152). -/
theorem posted_notify (u : ApicUnit) (v : Vec) (trig trig' : Trigger) (tag : Word32) :
    ((u.posted v trig tag).pib trig').notify = ((u.pib trig').notify || u.stages v && decide (trig' = trig)) := by
  cases hs : u.stages v with
  | true =>
    rw [posted_of_stages hs]
    cases trig <;> cases trig' <;>
      simp [ApicUnit.stage, ApicUnit.setNotify, ApicUnit.stagePost, ApicUnit.pib, ApicUnit.setPib]
  | false =>
    rw [posted_eq]
    split_ifs with hv hp
    · cases trig' <;> simp [ApicUnit.pib]
    · simp
    · simp [ApicUnit.stages, hp, Nat.lt_of_not_le hv] at hs

/-- A post after another to the same unit wakes as it would alone, unless the other has raised the flag of its bitmap. -/
theorem postWakes_posted (u : ApicUnit) (v w : Vec) (trig trig' : Trigger) (tag : Word32) :
    (u.posted v trig tag).postWakes w trig' = (u.postWakes w trig' && !(u.stages v && decide (trig' = trig))) := by
  rw [postWakes_eq, postWakes_eq, posted_stages, posted_notify, Bool.not_or, Bool.and_assoc]

/-- A post leaves the wakes of a post to another unit. -/
theorem postWakesOf_modify_ne {us : List ApicUnit} {i j : Nat} (h : i ≠ j) (f : ApicUnit → ApicUnit) (v : Vec)
    (trig : Trigger) : postWakesOf (us.modify i f) j v trig = postWakesOf us j v trig := by
  simp [postWakesOf, h]

/-- Two posts to one unit emit as many wakes in either order: of two staged to one bitmap, the first alone can wake. -/
theorem postWakesOf_same (us : List ApicUnit) (i : Nat) (v w : Vec) (trig trig' : Trigger) (g g' : Word32) :
    (postWakesOf us i v trig ++ postWakesOf (us.modify i (·.posted v trig g)) i w trig').Perm
      (postWakesOf us i w trig' ++ postWakesOf (us.modify i (·.posted w trig' g')) i v trig) := by
  cases hu : us[i]? with
  | none => simp [postWakesOf, hu]
  | some u =>
    simp only [postWakesOf, List.getElem?_modify_eq, hu, Option.map_eq_map, Option.map_some, Option.any_some,
      postWakes_posted]
    by_cases ht : trig' = trig
    · subst ht
      simp only [postWakes_eq]
      cases u.stages v <;> cases u.stages w <;> simp
    · simpa [ht, Ne.symm ht] using List.perm_append_comm

/-! ## The statement -/

/-- The units after two posts are the same in either order: each unit has both posts or one of them. -/
theorem modify_posted_comm {us : List ApicUnit} (h : ∀ (i : Nat) (u : ApicUnit), us[i]? = some u → TagStore.wf u.tag = true)
    (i j : Nat) (v w : Vec) (trig trig' : Trigger) (g g' : Word32) :
    (us.modify i (·.posted v trig g)).modify j (·.posted w trig' g') =
      (us.modify j (·.posted w trig' g')).modify i (·.posted v trig g) := by
  by_cases hij : i = j
  · subst hij
    apply List.ext_getElem?
    intro k
    by_cases hk : i = k
    · subst hk
      cases hu : us[i]? with
      | none => simp [hu]
      | some u => simp [hu, posted_comm (h i u hu) v w]
    · simp [hk]
  · exact List.modify_modify_ne _ _ us hij

/-- Settles O38: the units by `modify_posted_comm`, the wakes by `postWakesOf_same` where both posts go to one unit. -/
theorem postsCommute : Obligations.PostsCommute := by
  intro s i j v w trig trig' g g' hwf
  obtain ⟨a, ha, haunits, haout⟩ := exec_post s i v trig g
  obtain ⟨b, hb, hbunits, hbout⟩ := exec_post a j w trig' g'
  obtain ⟨a', ha', haunits', haout'⟩ := exec_post s j w trig' g'
  obtain ⟨b', hb', hbunits', hbout'⟩ := exec_post a' i v trig g
  refine ⟨a, b, a', b', ha, hb, ha', hb', ?_, ?_⟩
  · rw [hbunits, haunits, hbunits', haunits']
    exact modify_posted_comm (memory_wf_iff.mp hwf) i j v w trig trig' g g'
  · rw [hbout, haout, haunits, hbout', haout', haunits', List.append_assoc, List.append_assoc]
    refine List.Perm.append_left _ ?_
    by_cases hij : i = j
    · subst hij
      exact postWakesOf_same s.units i v w trig trig' g g'
    · rw [postWakesOf_modify_ne hij, postWakesOf_modify_ne (Ne.symm hij)]
      exact List.perm_append_comm

end Sys2Proof.Machine
end

section
/-! A command of several atomic steps taken one step at a time, with no step of another agent between, ends as the command
run whole (O60). The effect of a step depends neither on the input script nor on the list of outstanding commands, so both
runs make the same steps on the same state. -/

namespace Sys2Proof.Machine

/-! ## The script and the outstanding commands play no part in what a step does -/

/-- The state with another input script and other outstanding commands. -/
def State.rescript (s : State) (script : List Input) (flight : List InFlight) : State :=
  { s with inputs := script, inFlight := flight }

/-- The plan from the state with another input script and other outstanding commands. -/
def Plan.rescript (p : Plan) (script : List Input) (flight : List InFlight) : Plan :=
  { p with state := p.state.rescript script flight }

section
variable (s : State) (l : List Input) (fl : List InFlight)

@[simp] theorem State.rescript_units : (s.rescript l fl).units = s.units := rfl
@[simp] theorem State.rescript_inputs : (s.rescript l fl).inputs = l := rfl
@[simp] theorem State.rescript_inFlight : (s.rescript l fl).inFlight = fl := rfl

@[simp] theorem State.rescript_rescript (l' : List Input) (fl' : List InFlight) :
    (s.rescript l' fl').rescript l fl = s.rescript l fl := rfl

/-- Both replaced by what they are. -/
theorem State.rescript_self : s.rescript s.inputs s.inFlight = s := rfl

theorem State.mapUnit_rescript (i : Nat) (f : ApicUnit → ApicUnit) :
    (s.rescript l fl).mapUnit i f = (s.mapUnit i f).rescript l fl := by
  simp only [State.mapUnit, State.rescript_units]
  split <;> rfl

theorem State.unitHas_rescript (i : Nat) (p : ApicUnit → Bool) : (s.rescript l fl).unitHas i p = s.unitHas i p := rfl

theorem State.emit_rescript (es : List Event) : (s.rescript l fl).emit es = (s.emit es).rescript l fl := rfl

/-- The effect of an atomic step, and what it finds, do not depend on the script and the outstanding commands. -/
theorem atomicStep_rescript (a : AtomicStep) (p : Progress) :
    atomicStep a (s.rescript l fl) p = ((atomicStep a s p).1.rescript l fl, (atomicStep a s p).2) := by
  cases a with
  | postRead t v =>
    simp only [atomicStep, State.mapUnit_rescript, State.unitHas_rescript]
    split
    · rfl
    · split
      · rfl
      · split <;> simp [*]
  | postSet t v trig tag =>
    simp only [atomicStep, State.mapUnit_rescript]
    split <;> rfl
  | postNotify t trig =>
    simp only [atomicStep, State.unitHas_rescript, State.emit_rescript, State.mapUnit_rescript]
    split <;> rfl
  | latchLint0 t =>
    simp only [atomicStep, State.mapUnit_rescript]
    split <;> rfl
  | foldWord t trig k =>
    simp only [atomicStep, State.unitHas_rescript, State.mapUnit_rescript]
    rfl
  | _ => simp only [atomicStep, State.mapUnit_rescript, State.unitHas_rescript, State.emit_rescript]

/-- The plan on the unit a command addresses, if the plan on every unit does not depend on the script. -/
theorem planOnUnit_rescript (i : Nat) {k k' : ApicUnit → Plan} (h : ∀ u, k' u = (k u).rescript l fl) :
    planOnUnit (s.rescript l fl) i k' = (planOnUnit s i k).rescript l fl := by
  simp only [planOnUnit, State.rescript_units]
  split
  · rfl
  · exact h _

theorem sendPlan_rescript (sender : Option Nat) (v : Vec) (trig : Trigger) (dm : DeliveryMode) (targets : List Nat)
    (tag : Word32) (priv : Bool) (read : List Nat) (after : List AtomicStep) (finish : Finish) :
    sendPlan (s.rescript l fl) sender v trig dm targets tag priv read after finish =
      (sendPlan s sender v trig dm targets tag priv read after finish).rescript l fl := by
  unfold sendPlan
  split <;> rfl

theorem sendFromIcr_rescript (i : Nat) (u : ApicUnit) (priv : Bool) :
    sendFromIcr (s.rescript l fl) i u priv = (sendFromIcr s i u priv).rescript l fl := by
  have htargets : (s.rescript l fl).icrTargets i u = s.icrTargets i u := rfl
  unfold sendFromIcr
  rw [htargets]
  split
  · rfl
  · split
    · rfl
    · exact sendPlan_rescript s l fl ..

theorem endOfInterrupt_rescript (i : Nat) (u : ApicUnit) :
    (s.rescript l fl).endOfInterrupt i u = (s.endOfInterrupt i u).rescript l fl := by
  unfold State.endOfInterrupt
  split <;> rfl

theorem writeEffect_rescript (i : Nat) (u : ApicUnit) (r : Reg) (x : Word32) (priv : Bool) :
    writeEffect (s.rescript l fl) i u r x priv = (writeEffect s i u r x priv).rescript l fl := by
  cases r with
  | eoi => exact congrArg (Plan.done · .ok) (endOfInterrupt_rescript s l fl i u)
  | icrLo => exact sendFromIcr_rescript (s.setUnit i _) l fl i _ priv
  | _ => rfl

theorem planWriteReg_rescript (i : Nat) (off x : Word32) (priv : Bool) :
    planWriteReg i off x priv (s.rescript l fl) = (planWriteReg i off x priv s).rescript l fl := by
  refine planOnUnit_rescript s l fl i fun u => ?_
  have hcfg : (s.rescript l fl).cfg = s.cfg := rfl
  rw [hcfg]
  split
  · rfl
  · split
    · rfl
    · split
      · rfl
      · split
        · rfl
        · exact writeEffect_rescript s l fl ..

theorem planWriteMsr_rescript (i : Nat) (idx : Word32) (x : Word64) (priv : Bool) :
    planWriteMsr i idx x priv (s.rescript l fl) = (planWriteMsr i idx x priv s).rescript l fl := by
  refine planOnUnit_rescript s l fl i fun u => ?_
  have hcfg : (s.rescript l fl).cfg = s.cfg := rfl
  rw [hcfg]
  split
  · rfl
  · split
    · rfl
    · split
      · rfl
      · split_ifs
        · rfl
        · rfl
        · rfl
        · rfl
        · exact sendFromIcr_rescript (s.setUnit i _) l fl i _ priv
        · exact writeEffect_rescript s l fl ..

theorem planBusDeliver_rescript (v : Vec) (dm : DeliveryMode) (d : DestMode) (trig : Trigger) (pol : Bool)
    (tag mask : Word32) (priv : Bool) :
    planBusDeliver v dm d trig pol tag mask priv (s.rescript l fl) =
      (planBusDeliver v dm d trig pol tag mask priv s).rescript l fl := by
  have hdest : (s.rescript l fl).computeDest mask d dm (s.rescript l fl).cfg.busWide =
      s.computeDest mask d dm s.cfg.busWide := rfl
  unfold planBusDeliver
  rw [hdest]
  split
  · rfl
  · exact sendPlan_rescript s l fl ..

theorem localFixed_rescript (i : Nat) (u : ApicUnit) (pin : Pin) (priv : Bool) :
    localFixed (s.rescript l fl) i u pin priv = (localFixed s i u pin priv).rescript l fl := by
  simp only [localFixed]
  split
  · rfl
  · exact sendPlan_rescript s l fl ..

theorem planLocalInterrupt_rescript (i : Nat) (pin : Pin) (level priv : Bool) :
    planLocalInterrupt i pin level priv (s.rescript l fl) =
      (planLocalInterrupt i pin level priv s).rescript l fl := by
  refine planOnUnit_rescript s l fl i fun u => ?_
  have hsend : ∀ dm, sendPlan (s.rescript l fl) (some i) (vectorField (u.lvt (pinLvt pin))) .edge dm [i] s.cfg.tagLint
      priv [i] [] (.always .ok) = (sendPlan s (some i) (vectorField (u.lvt (pinLvt pin))) .edge dm [i] s.cfg.tagLint
      priv [i] [] (.always .ok)).rescript l fl := fun _ => sendPlan_rescript s l fl ..
  simp only []
  split
  · rfl
  · split
    · rfl
    · cases deliveryModeField (u.lvt (pinLvt pin)) <;> cases level
      case fixed.true => exact localFixed_rescript s l fl ..
      case smi.true => exact hsend .smi
      case nmi.true => exact hsend .nmi
      case init.true => exact hsend .init
      all_goals rfl

/-- The first atomic step of a command does not depend on the script and the outstanding commands, and plans the same
steps. -/
theorem planOf_rescript (c : Instr) : planOf c (s.rescript l fl) = (planOf c s).map (·.rescript l fl) := by
  cases c with
  | writeReg i off x priv => exact congrArg some (planWriteReg_rescript s l fl ..)
  | writeMsr i idx x priv => exact congrArg some (planWriteMsr_rescript s l fl ..)
  | post t v trig tag => exact congrArg some (planOnUnit_rescript s l fl t fun _ => rfl)
  | fold i => exact congrArg some (planOnUnit_rescript s l fl i fun _ => rfl)
  | timerExpire i =>
    refine congrArg some (planOnUnit_rescript s l fl i fun u => ?_)
    rw [show (s.rescript l fl).vt = s.vt from rfl]
    split <;> rfl
  | sendIpiFromIcr i priv =>
    exact congrArg some (planOnUnit_rescript s l fl i fun u => sendFromIcr_rescript s l fl i u priv)
  | busDeliver v dm d trig pol g m priv => exact congrArg some (planBusDeliver_rescript s l fl ..)
  | localInterrupt i pin level priv => exact congrArg some (planLocalInterrupt_rescript s l fl ..)
  | _ => rfl

end

/-! ## The steps of one agent, one input each -/

/-- A plan whose first step still to be made is `x`, after that step. -/
theorem complete_cons (s : State) (p : Progress) (x : AtomicStep) (rest : List AtomicStep) (f : Finish) :
    (Plan.mk s p (x :: rest) f).complete = (Plan.mk (atomicStep x s p).1 (atomicStep x s p).2 rest f).complete := rfl

section
variable {c : InFlight} {others : List InFlight} (h : ∀ d ∈ others, d.agent ≠ c.agent)
include h

/-- The outstanding command of an agent that has no other is the one found. -/
theorem find_own_flight : (others ++ [c]).find? (fun d => decide (d.agent = c.agent)) = some c := by
  rw [List.find?_append, List.find?_eq_none.mpr (by simpa using h)]
  simp

theorem filter_own_flight : (others ++ [c]).filter (fun d => decide (d.agent ≠ c.agent)) = others := by
  rw [List.filter_append, List.filter_eq_self.mpr (by simpa using h)]
  simp

theorem map_own_flight (c' : InFlight) (hc : c'.agent = c.agent) :
    (others ++ [c]).map (fun d => if d.agent = c'.agent then c' else d) = others ++ [c'] := by
  have hothers : others.map (fun d => if d.agent = c'.agent then c' else d) = others := by
    refine (List.map_congr_left fun d hd => ?_).trans (List.map_id others)
    rw [hc, if_neg (h d hd), id]
  rw [List.map_append, hothers]
  simp [hc]

/-- An `advance` of the agent makes the next step of its command (R70). -/
theorem step_advance (s : State) (l : List Input) :
    step (s.rescript (.advance c.agent :: l) (others ++ [c])) =
      .next (advanceCommand c (s.rescript l (others ++ [c]))) := by
  change runInput (.advance c.agent) (s.rescript l (others ++ [c])) = _
  simp only [runInput, State.rescript_inFlight, find_own_flight h]

end

/-- A run whose first step gives a next state goes on from there. -/
theorem core_run_succ (M : Host.Core) {s s' : M.State} (k : Nat) (h : M.step s = .next s') :
    M.run (k + 1) s = M.run k s' := by
  simp only [Host.Core.run, h]

theorem run_succ {s s' : State} (k : Nat) (h : step s = .next s') :
    Host.Core.run Sys2Proof.core (k + 1) s = Host.Core.run Sys2Proof.core k s' :=
  core_run_succ Sys2Proof.core k h

/-- The last step of a command takes it off the outstanding ones and answers as the plan run to its end does. -/
theorem advanceCommand_last {a : Agent} {others : List InFlight} (h : ∀ d ∈ others, d.agent ≠ a) (s : State)
    (p : Progress) (x : AtomicStep) (f : Finish) :
    advanceCommand ⟨a, p, [x], f⟩ (s.rescript [] (others ++ [⟨a, p, [x], f⟩])) =
      ((Plan.mk s p [x] f).complete.answerTo a).rescript [] others := by
  simp only [advanceCommand, atomicStep_rescript, State.dropInFlight, State.rescript_inFlight]
  rw [filter_own_flight (c := ⟨a, p, [x], f⟩) h]
  rfl

/-- A step that is not the last leaves the rest of the command outstanding. -/
theorem advanceCommand_more {a : Agent} {others : List InFlight} (h : ∀ d ∈ others, d.agent ≠ a) (s : State)
    (l : List Input) (p : Progress) (x y : AtomicStep) (rest : List AtomicStep) (f : Finish) :
    advanceCommand ⟨a, p, x :: y :: rest, f⟩ (s.rescript l (others ++ [⟨a, p, x :: y :: rest, f⟩])) =
      (atomicStep x s p).1.rescript l (others ++ [⟨a, (atomicStep x s p).2, y :: rest, f⟩]) := by
  simp only [advanceCommand, atomicStep_rescript, State.keepInFlight, State.rescript_inFlight]
  rw [map_own_flight (c := ⟨a, p, x :: y :: rest, f⟩) h ⟨a, (atomicStep x s p).2, y :: rest, f⟩ rfl]
  rfl

/-- The steps an agent has left, taken one input at a time with no other input between, end as the plan run to its end. -/
theorem run_advances {a : Agent} {others : List InFlight} (h : ∀ d ∈ others, d.agent ≠ a) (f : Finish) (x : AtomicStep)
    (rest : List AtomicStep) (s : State) (p : Progress) :
    Host.Core.run Sys2Proof.core (rest.length + 1)
        (s.rescript (List.replicate (rest.length + 1) (.advance a)) (others ++ [⟨a, p, x :: rest, f⟩])) =
      .next (((Plan.mk s p (x :: rest) f).complete.answerTo a).rescript [] others) := by
  induction rest generalizing x s p with
  | nil =>
    refine (run_succ _ (step_advance (c := ⟨a, p, [x], f⟩) h s [])).trans ?_
    rw [advanceCommand_last h]
    rfl
  | cons y rest ih =>
    refine (run_succ _ (step_advance (c := ⟨a, p, x :: y :: rest, f⟩) h s _)).trans ?_
    rw [advanceCommand_more h, complete_cons s]
    exact ih y (atomicStep x s p).1 (atomicStep x s p).2

/-- What a started plan leaves, the steps it has left taken alone, is what the plan run to its end leaves. -/
theorem run_begin {s : State} {a : Agent} {p : Plan} (hbusy : s.busy a = false) (hp : CommandMoves s p.state)
    (hinputs : s.inputs = []) :
    Host.Core.run Sys2Proof.core p.todo.length
        (State.begin a (p.rescript (List.replicate p.todo.length (.advance a)) s.inFlight)) =
      .next (p.complete.answerTo a) := by
  have hself : (p.complete.answerTo a).rescript [] s.inFlight = p.complete.answerTo a := by
    have hmoves := complete_moves hp
    rw [← hinputs, ← hmoves.inputs, ← hmoves.inFlight]
    rfl
  obtain ⟨state, progress, todo, finish⟩ := p
  cases todo with
  | nil => exact congrArg Host.Outcome.next hself
  | cons x rest =>
    exact (run_advances (agent_ne_of_not_busy hbusy) finish x rest state progress).trans
      (congrArg Host.Outcome.next hself)

/-- A command started with as many steps of its agent to come as its plan leaves ends as the command run whole; a command
of one atomic step leaves none. -/
theorem run_started {s t : State} {a : Agent} {c : Instr} (hbusy : s.busy a = false) (hinputs : s.inputs = [])
    (h : answerOutcome a (exec c s) = .next t) :
    ∃ (k : Nat) (s' : State), startCommand a (s.rescript (List.replicate k (.advance a)) s.inFlight) c = .next s' ∧
      Host.Core.run Sys2Proof.core k s' = .next t := by
  cases hplan : planOf c s with
  | none =>
    have hs : s.rescript [] s.inFlight = s := by rw [← hinputs, State.rescript_self]
    refine ⟨0, t, ?_, rfl⟩
    rw [List.replicate_zero, hs, startCommand, hplan]
    exact h
  | some p =>
    obtain rfl : p.complete.answerTo a = t := by
      rw [exec_of_planOf hplan] at h
      exact Host.Outcome.next.inj h
    refine ⟨p.todo.length, _, ?_, run_begin hbusy (planOf_moves hplan) hinputs⟩
    rw [startCommand, planOf_rescript, hplan]
    rfl

/-! ## The statement -/

/-- The port takes a `start` of a word as it takes an `issue` of it, and then starts the command (R70). -/
theorem step_start (s : State) (a : Agent) (w : PortWord) (l : List Input) :
    step { s with inputs := .start a w :: l } =
      takeWord a w (s.rescript l s.inFlight) (startCommand a (s.rescript l s.inFlight)) := rfl

/-- Settles O60. A word the port answers itself is over with the `start`; a command taken by the port is started, and
`run_started` says how many steps of its agent bring it to its end. -/
theorem splitRunEqualsWhole : Obligations.SplitRunEqualsWhole := by
  intro s t a w h
  have htake : takeWord a w (s.rescript [] s.inFlight) (fun c => answerOutcome a (exec c (s.rescript [] s.inFlight))) =
      .next t := h
  obtain ⟨hbusy, ⟨e, hdec, rfl⟩ | ⟨c, hdec, hmay, hrun⟩⟩ := takeWord_next htake
  · refine ⟨0, run_succ 0 ((step_start s a w []).trans ?_)⟩
    simp [takeWord, hbusy, hdec]
  · obtain ⟨k, s', hstart, hend⟩ := run_started hbusy rfl hrun
    refine ⟨k, (run_succ k ((step_start s a w _).trans ?_)).trans hend⟩
    have hbusy' : (s.rescript (List.replicate k (.advance a)) s.inFlight).busy a = false := hbusy
    simpa [takeWord, hbusy', hdec, hmay] using hstart

end Sys2Proof.Machine
end

section
/-! The command word (O1 to O3): a word is its fields, a command is read back from the fields it is written to, and the
fields a command does not use play no part. -/

namespace Sys2Proof

open Machine

/-! ## The fields of a word -/

/-- Splitting a joined word gives the fields it was joined from (R81): the fields to its right are dropped one by one,
which takes a field to the low end. -/
@[simp] theorem splitWord_joinWord (f : CommandFields) : splitWord (joinWord f) = f := by
  obtain ⟨op, unit, vector, dmode, destMode, trig, lvl, priv, aux, data⟩ := f
  simp only [splitWord, joinWord, CommandFields.mk.injEq, BitVec.extractLsb'_append_eq_of_le,
    BitVec.extractLsb'_append_eq_of_add_le, BitVec.getLsbD_append, BitVec.extractLsb'_eq_self, Nat.reduceLeDiff,
    Nat.reduceSub, Nat.le_refl]
  simp

/-- The fields a mask leaves: each field ANDed with the mask's. -/
def CommandFields.mask (m f : CommandFields) : CommandFields where
  op := f.op &&& m.op
  unit := f.unit &&& m.unit
  vector := f.vector &&& m.vector
  dmode := f.dmode &&& m.dmode
  destMode := f.destMode && m.destMode
  trig := f.trig && m.trig
  lvl := f.lvl && m.lvl
  priv := f.priv && m.priv
  aux := f.aux &&& m.aux
  data := f.data &&& m.data

/-- Masking a word masks its fields. -/
theorem splitWord_and (w m : PortWord) : splitWord (w &&& m) = (splitWord m).mask (splitWord w) := by
  simp only [splitWord, CommandFields.mask, BitVec.extractLsb'_and, BitVec.getLsbD_and]

/-! ## The operands -/

@[simp] theorem DeliveryMode.ofBits_toBits (dm : DeliveryMode) : DeliveryMode.ofBits dm.toBits = dm := by
  cases dm <;> rfl

@[simp] theorem DestMode.ofBool_toBool (d : DestMode) : DestMode.ofBool d.toBool = d := by
  cases d <;> rfl

@[simp] theorem Trigger.ofBool_toBool (t : Trigger) : Trigger.ofBool t.toBool = t := by
  cases t <;> rfl

@[simp] theorem Pin.ofBool_toBool (p : Pin) : Pin.ofBool p.toBool = p := by
  cases p <;> rfl

/-- A well-formed unit index is read back from its eight bits. -/
theorem toNat_ofNat_unit {i : Instr} {u : Nat} (h : WellFormed i = true) (hu : i.unit? = some u) :
    (BitVec.ofNat 8 u).toNat = u := by
  have hlt : u < 256 := by simpa [WellFormed, hu] using h
  rw [BitVec.toNat_ofNat, Nat.mod_eq_of_lt hlt]

/-! ## Decoding what was encoded -/

/-- The fields a command is written to read back as the command (R82). -/
theorem decodeFields_encodeFields {i : Instr} (h : WellFormed i = true) : decodeFields (encodeFields i) = .ok i := by
  have hunit : ∀ u, i.unit? = some u → (BitVec.ofNat 8 u).toNat = u := fun _ => toNat_ofNat_unit h
  cases i with
  | busDeliver v dm d t pol g m p =>
    simp only [decodeFields, encodeFields]
    simp [extract_low_of_setWidth]
  | writeReg u off x p =>
    simp only [decodeFields, encodeFields, hunit u rfl, extract_low_of_setWidth]
    rfl
  | setInitialCount u n =>
    simp only [decodeFields, encodeFields, hunit u rfl, extract_low_of_setWidth]
    rfl
  | post u v t g =>
    simp only [decodeFields, encodeFields, hunit u rfl, Trigger.ofBool_toBool]
    rfl
  | localInterrupt u pin l p =>
    simp only [decodeFields, encodeFields, hunit u rfl]
    cases pin <;> rfl
  | _ =>
    simp only [decodeFields, encodeFields, hunit _ rfl]
    rfl

/-- Settles O2: the word splits into the fields it was joined from, and those read back as the command. -/
theorem decodeOfEncode : Obligations.DecodeOfEncode := by
  intro i h
  rw [decode, encode, splitWord_joinWord, decodeFields_encodeFields h]

/-- Settles O1. The words are closed, so the decoder computes each command. -/
theorem sampleWordsDecode : Obligations.SampleWordsDecode := by
  exact ⟨rfl, rfl, rfl, rfl, rfl, rfl, rfl, rfl⟩

/-! ## Every word is a command or an illegal opcode -/

theorem mem_opcodes_iff (op : BitVec 8) : op ∈ opcodes ↔ op.toNat ∈ opcodes.map BitVec.toNat := by
  simp only [List.mem_map, BitVec.toNat_inj, exists_eq_right]

/-- Fields with one of the 23 opcodes are a well-formed command, all others an illegal opcode (R83, R105). -/
theorem decodeFields_cases (f : CommandFields) :
    (f.op ∈ opcodes ∧ ∃ i, decodeFields f = .ok i ∧ WellFormed i = true) ∨
      (f.op ∉ opcodes ∧ decodeFields f = .error (.illegalOpcode f.op)) := by
  have hunit : decide (f.unit.toNat < 256) = true := decide_eq_true f.unit.isLt
  rw [mem_opcodes_iff]
  unfold decodeFields
  split
  case h_22 hop => exact .inl ⟨by rw [hop]; decide, _, rfl, rfl⟩
  case h_24 => exact .inr ⟨by simp_all [opcodes], rfl⟩
  all_goals
    rename_i hop
    exact .inl ⟨by rw [hop]; decide, _, rfl, hunit⟩

theorem decode_of_opcode {w : PortWord} (h : w.extractLsb' 120 8 ∈ opcodes) :
    ∃ i, decode w = .ok i ∧ WellFormed i = true := by
  obtain ⟨-, hok⟩ | ⟨hnot, -⟩ := decodeFields_cases (splitWord w)
  · exact hok
  · exact absurd h hnot

theorem decode_of_not_opcode {w : PortWord} (h : w.extractLsb' 120 8 ∉ opcodes) :
    decode w = .error (.illegalOpcode (w.extractLsb' 120 8)) := by
  obtain ⟨hop, -⟩ | ⟨-, herror⟩ := decodeFields_cases (splitWord w)
  · exact absurd hop h
  · exact herror

/-! ## The unused fields -/

/-- Every command uses the whole opcode. -/
theorem usedBits_op (op : BitVec 8) : (usedBits op).extractLsb' 120 8 = BitVec.allOnes 8 := by
  unfold usedBits
  split <;> rfl

/-- Clearing the bits its opcode does not use leaves a word its opcode. -/
theorem op_masked (w : PortWord) (op : BitVec 8) :
    (w &&& usedBits op).extractLsb' 120 8 = w.extractLsb' 120 8 := by
  rw [BitVec.extractLsb'_and, usedBits_op, BitVec.and_allOnes]

/-- Fields read the same once the bits their opcode does not use are cleared, opcode by opcode (R82, R83). -/
theorem decodeFields_masked (f : CommandFields) :
    decodeFields ((splitWord (usedBits f.op)).mask f) = decodeFields f := by
  have hop : ((splitWord (usedBits f.op)).mask f).op = f.op := by
    simp only [CommandFields.mask, splitWord, usedBits_op, BitVec.and_allOnes]
  have hvector : ∀ x : BitVec 8, x &&& 255#8 = x := fun _ => BitVec.and_allOnes
  have hdmode : ∀ x : BitVec 3, x &&& 7#3 = x := fun _ => BitVec.and_allOnes
  have haux : ∀ x : Word32, x &&& 4294967295#32 = x := fun _ => BitVec.and_allOnes
  have hdata : ∀ x : Word64, x &&& 18446744073709551615#64 = x := fun _ => BitVec.and_allOnes
  unfold decodeFields
  rw [hop]
  split
  all_goals simp [CommandFields.mask, splitWord, usedBits, BitVec.extractLsb'_and, *]

theorem decode_masked (w : PortWord) : decode (w &&& usedBits (w.extractLsb' 120 8)) = decode w := by
  rw [decode, splitWord_and]
  exact decodeFields_masked (splitWord w)

/-- Settles O3. Two words that agree on the bits their opcode uses have the same opcode, so the same bits of both can be
cleared. -/
theorem decoderTotalAndBlind : Obligations.DecoderTotalAndBlind := by
  refine ⟨fun _ => decode_of_opcode, fun _ => decode_of_not_opcode, fun w w' h => ?_⟩
  have hop : w.extractLsb' 120 8 = w'.extractLsb' 120 8 := by
    rw [← op_masked w, h, op_masked]
  calc decode w = decode (w &&& usedBits (w.extractLsb' 120 8)) := (decode_masked w).symm
    _ = decode (w' &&& usedBits (w'.extractLsb' 120 8)) := by rw [h, hop]
    _ = decode w' := decode_masked w'

end Sys2Proof
end

section
/-! The response word (O7): its layout, and which of its fields each command gives. -/

namespace Sys2Proof

/-! ## What a response may carry -/

/-- The fields a command may give in its response, beside the status: `GET_NEXT` the vector and its tag, the
four reading commands the data, every other command none (R85). -/
def Instr.Gives (i : Instr) (v : Vec) (aux : Word32) (data : Word64) : Prop :=
  match i with
  | .getNext _ => data = 0
  | .readReg _ _ | .readMsr _ _ | .getBase _ | .getCurrentCount _ => v = 0 ∧ aux = 0
  | _ => v = 0 ∧ aux = 0 ∧ data = 0

/-- Only `GET_NEXT` gives a vector and a tag. -/
theorem Instr.Gives.no_vector {i : Instr} {v : Vec} {aux : Word32} {data : Word64} (h : i.Gives v aux data)
    (hi : ∀ k, i ≠ .getNext k) : v = 0 ∧ aux = 0 := by
  cases i with
  | getNext k => exact absurd rfl (hi k)
  | readReg | readMsr | getBase | getCurrentCount => exact h
  | _ =>
    obtain ⟨hv, ha, -⟩ := h
    exact ⟨hv, ha⟩

/-- Only the four reading commands give data. -/
theorem Instr.Gives.no_data {i : Instr} {v : Vec} {aux : Word32} {data : Word64} (h : i.Gives v aux data)
    (hreg : ∀ k off, i ≠ .readReg k off) (hmsr : ∀ k idx, i ≠ .readMsr k idx) (hbase : ∀ k, i ≠ .getBase k)
    (hcount : ∀ k, i ≠ .getCurrentCount k) : data = 0 := by
  cases i with
  | getNext => exact h
  | readReg k off => exact absurd rfl (hreg k off)
  | readMsr k idx => exact absurd rfl (hmsr k idx)
  | getBase k => exact absurd rfl (hbase k)
  | getCurrentCount k => exact absurd rfl (hcount k)
  | _ =>
    obtain ⟨-, -, hdata⟩ := h
    exact hdata

end Sys2Proof

namespace Sys2Proof.Machine

/-! ## The layout of the response -/

/-- The fields of a response word, the reserved one among them (R85). -/
theorem responseWord_layout (st : Status) (v : Vec) (aux : Word32) (data : Word64) :
    (responseWord st v aux data).extractLsb' 120 8 = st.code ∧ (responseWord st v aux data).extractLsb' 112 8 = v ∧
      (responseWord st v aux data).extractLsb' 96 16 = 0#16 ∧ (responseWord st v aux data).extractLsb' 64 32 = aux ∧
      (responseWord st v aux data).extractLsb' 0 64 = data := by
  simp only [responseWord, BitVec.extractLsb'_append_eq_of_le, BitVec.extractLsb'_append_eq_of_add_le,
    BitVec.extractLsb'_eq_self, Nat.reduceLeDiff, Nat.reduceSub, Nat.le_refl, and_self]

/-! ## What each command answers with -/

/-- The response on the port is one a command may give. -/
def Answers (i : Instr) (t : State) : Prop :=
  ∃ st v aux data, t.rsp = responseWord st v aux data ∧ i.Gives v aux data

/-- A status alone is an answer of every command. -/
theorem answers_respond (i : Instr) (s : State) (st : Status) : Answers i (s.respond st) :=
  ⟨st, 0, 0, 0, rfl, by cases i <;> simp [Instr.Gives]⟩

theorem answers_complete (i : Instr) (p : Plan) : Answers i p.complete := answers_respond i _ _

theorem answers_onUnit {i : Instr} {s : State} {k : Nat} {run : ApicUnit → State} (h : ∀ u, Answers i (run u)) :
    Answers i (onUnit s k run) := by
  unfold onUnit
  split
  · exact answers_respond i s _
  · exact h _

/-- The four reading commands answer with data (R85). -/
theorem answers_respondData {i : Instr} (hi : ∀ data, i.Gives 0 0 data) (s : State) (data : Word64) :
    Answers i (s.respondData data) :=
  ⟨.ok, 0, 0, data, rfl, hi data⟩

theorem answers_getNext (k : Nat) (s : State) (st : Status) (v : Vec) (aux : Word32) :
    Answers (.getNext k) (s.answer st v aux 0) :=
  ⟨st, v, aux, 0, rfl, rfl⟩

/-- Every command gives a next state, with an answer of its own on the port (R82, R85, R260). -/
theorem exec_answers (i : Instr) (s : State) : ∃ t, exec i s = .next t ∧ Answers i t := by
  cases i with
  | readReg k off =>
    have hgives : ∀ data, Instr.Gives (.readReg k off) 0 0 data := fun _ => ⟨rfl, rfl⟩
    refine ⟨_, rfl, answers_onUnit fun u => ?_⟩
    split
    · exact answers_respond _ s _
    · split
      · exact answers_respond _ s _
      · split <;> exact answers_respondData hgives _ _
  | readMsr k idx =>
    have hgives : ∀ data, Instr.Gives (.readMsr k idx) 0 0 data := fun _ => ⟨rfl, rfl⟩
    refine ⟨_, rfl, answers_onUnit fun u => ?_⟩
    split
    · exact answers_respond _ s _
    · split
      · exact answers_respond _ s _
      · split
        · exact answers_respond _ s _
        · split
          · exact answers_respond _ s _
          · split <;> exact answers_respondData hgives _ _
  | getBase k =>
    have hgives : ∀ data, Instr.Gives (.getBase k) 0 0 data := fun _ => ⟨rfl, rfl⟩
    exact ⟨_, rfl, answers_onUnit fun u => answers_respondData hgives s _⟩
  | getCurrentCount k =>
    have hgives : ∀ data, Instr.Gives (.getCurrentCount k) 0 0 data := fun _ => ⟨rfl, rfl⟩
    exact ⟨_, rfl, answers_onUnit fun u => answers_respondData hgives s _⟩
  | setBase k x =>
    refine ⟨_, rfl, answers_onUnit fun u => ?_⟩
    split <;> exact answers_respond _ _ _
  | getNext k =>
    refine ⟨_, rfl, answers_onUnit fun u => ?_⟩
    split
    · exact answers_respond _ s _
    · split
      · exact answers_respond _ s _
      · split
        · exact answers_getNext ..
        · split
          · exact answers_respond _ s _
          · exact answers_getNext ..
  | reset | init | updatePpr | signalIfPending | eoi | queueToService | dequeueFromService | setInitialCount
  | stopTimer =>
    exact ⟨_, rfl, answers_onUnit fun u => answers_respond _ _ _⟩
  | writeReg | writeMsr | post | fold | timerExpire | sendIpiFromIcr | busDeliver | localInterrupt =>
    exact ⟨_, rfl, answers_complete _ _⟩

/-- Settles O7: what the command gives, read off the fields of its response word; the codes of R86 are computed. -/
theorem responseFields : Obligations.ResponseFields := by
  refine ⟨fun i s => ?_, fun st v aux data => ?_, rfl⟩
  · obtain ⟨t, hexec, st, v, aux, data, hrsp, hgives⟩ := exec_answers i s
    obtain ⟨hstatus, hvector, hzero, haux, hdata⟩ := responseWord_layout st v aux data
    rw [← hrsp] at hstatus hvector hzero haux hdata
    refine ⟨t, hexec, ⟨st, hstatus⟩, hzero, fun hnext => ?_, fun hreg hmsr hbase hcount => ?_⟩
    · obtain ⟨hv, ha⟩ := hgives.no_vector hnext
      exact ⟨hvector.trans hv, haux.trans ha⟩
    · exact hdata.trans (hgives.no_data hreg hmsr hbase hcount)
  · obtain ⟨hstatus, hvector, -, haux, hdata⟩ := responseWord_layout st v aux data
    exact ⟨hstatus, hvector, haux, hdata⟩

end Sys2Proof.Machine
end

section
/-! How a step takes a word from the port (O4, O5): the port answers a word that is no command, and runs one that is. -/

namespace Sys2Proof.Machine

/-! ## How the port takes a word -/

section
variable {s : State} {a : Agent} {w : PortWord} {run : Instr → Host.Outcome State Fault Refusal}

theorem not_busy_of_agent_ne (h : ∀ c ∈ s.inFlight, c.agent ≠ a) : s.busy a = false := by
  simpa [State.busy] using h

/-- A word that is no command is answered by the port itself (R105). -/
theorem takeWord_error {e : DecodeError} (hbusy : s.busy a = false) (hdec : decode w = .error e) :
    takeWord a w s run = .next ((s.respond .illegalOpcode).answerTo a) := by
  simp [takeWord, hbusy, hdec]

/-- A command from an agent that may issue it is run (R80). -/
theorem takeWord_ok {i : Instr} (hbusy : s.busy a = false) (hdec : decode w = .ok i) (hmay : mayIssue a i = true) :
    takeWord a w s run = run i := by
  simp [takeWord, hbusy, hdec, hmay]

end

theorem step_cons {s : State} {inp : Input} {rest : List Input} (h : s.inputs = inp :: rest) :
    step s = runInput inp { s with inputs := rest } := by
  rw [step, h]

/-- Settles O4: the port answers the word before the two ways of issue part. -/
theorem illegalOpcodeAnswered : Obligations.IllegalOpcodeAnswered := by
  intro s a w rest hin hfree hop
  have hdec := decode_of_not_opcode hop
  have hbusy : ({ s with inputs := rest } : State).busy a = false := not_busy_of_agent_ne hfree
  rcases hin with hin | hin
  · rw [step_cons hin]
    exact takeWord_error hbusy hdec
  · rw [step_cons hin]
    exact takeWord_error hbusy hdec

/-- A command word issued whole by an agent that is free and may issue it: the step is the command, its response
given to that agent (R80). -/
theorem step_issue {s : State} {a : Agent} {w : PortWord} {rest : List Input} {i : Instr}
    (hin : s.inputs = .issue a w :: rest) (hfree : ∀ c ∈ s.inFlight, c.agent ≠ a) (hdec : decode w = .ok i)
    (hmay : mayIssue a i = true) :
    ∃ t, exec i { s with inputs := rest } = .next t ∧ step s = .next { t with rspTo := a } := by
  obtain ⟨t, hexec, -⟩ := exec_answers i { s with inputs := rest }
  have hbusy : ({ s with inputs := rest } : State).busy a = false := not_busy_of_agent_ne hfree
  refine ⟨t, hexec, ?_⟩
  rw [step_cons hin]
  exact (takeWord_ok hbusy hdec hmay).trans (congrArg (answerOutcome a) hexec)

/-! ## Placing a word -/

theorem mayIssue_usualIssuer (i : Instr) : mayIssue (usualIssuer i) i = true := by
  cases i <;> simp [mayIssue, usualIssuer]

/-- The table word of a command word's value is that word. -/
theorem tableWord_toNat (w : PortWord) : tableWord 128 w.toNat = w := by
  rw [tableWord, Nat.mod_eq_of_lt w.isLt, BitVec.ofNat_toNat, BitVec.setWidth_eq]

theorem issuerOf_encode {i : Instr} (h : WellFormed i = true) : issuerOf (encode i) = usualIssuer i := by
  rw [issuerOf, decodeOfEncode i h]

/-- Placing a command's word puts it before the script, from the command's usual issuer, whose outstanding command
goes. -/
theorem withFetchWord_encode (s : State) {i : Instr} (h : WellFormed i = true) :
    s.withFetchWord 128 (encode i).toNat =
      s.rescript (.issue (usualIssuer i) (encode i) :: s.inputs)
        (s.inFlight.filter fun c => decide (c.agent ≠ usualIssuer i)) := by
  rw [State.withFetchWord, tableWord_toNat, issuerOf_encode h, State.rescript]

/-- Settles O5. A placed word is issued whole by an agent whose outstanding command was taken away. -/
theorem stepRunsDecodedCommand : Obligations.StepRunsDecodedCommand := by
  refine ⟨fun s a w rest i => step_issue, fun s i h => ?_⟩
  rw [withFetchWord_encode s h]
  exact step_issue (s := s.rescript _ _) rfl (by simp) (decodeOfEncode i h) (mayIssue_usualIssuer i)

end Sys2Proof.Machine
end

section
/-! The priority of a unit. What a step can do to TPR, PPR and ISR, said once, and the invariant that PPR is what
`UPDATE_PPR` computes (O51). -/

namespace Sys2Proof.Machine

/-! ## The units whose PPR is up to date -/

/-- PPR is what `UPDATE_PPR` computes (R122). -/
def ApicUnit.PprOk (u : ApicUnit) : Prop := u.ppr = pprValue u.tpr u.isr

/-- The units agree on what `UPDATE_PPR` reads and writes: TPR, PPR and ISR (R121). -/
structure ApicUnit.SamePriority (u u' : ApicUnit) : Prop where
  tpr : u'.tpr = u.tpr
  ppr : u'.ppr = u.ppr
  isr : u'.isr = u.isr

theorem ApicUnit.SamePriority.pprOk {u u' : ApicUnit} (h : u.SamePriority u') (hu : u.PprOk) : u'.PprOk := by
  unfold ApicUnit.PprOk
  rw [h.ppr, h.tpr, h.isr]
  exact hu

theorem ApicUnit.updatePpr_pprOk (u : ApicUnit) : u.updatePpr.PprOk := rfl

/-- With nothing in service PPR is the TPR byte (R121). -/
theorem pprValue_isr_empty (tpr : Word32) : pprValue tpr 0 = (tpr.extractLsb' 0 8).setWidth 32 := by
  have hclass : serviceClass 0 = 0 := by rw [serviceClass, highest_eq_none.mpr rfl]
  rw [pprValue, hclass]
  exact if_pos (Nat.zero_le _)

/-- A reset clears TPR, PPR and ISR together (R292). -/
theorem ApicUnit.regsReset_pprOk (c : Config) (i : Nat) (full : Bool) (u : ApicUnit) :
    (u.regsReset c i full).PprOk :=
  (pprValue_isr_empty 0).symm

/-! ## The moves that leave the priority alone -/

theorem ApicUnit.setPib_samePriority (u : ApicUnit) (t : Trigger) (p : Pib) : u.SamePriority (u.setPib t p) := by
  cases t <;> exact ⟨rfl, rfl, rfl⟩

theorem ApicUnit.raiseSignal_samePriority (u : ApicUnit) (sig : Signal) : u.SamePriority (u.raiseSignal sig) := by
  cases sig <;> exact ⟨rfl, rfl, rfl⟩

theorem ApicUnit.writeSvr_samePriority (u : ApicUnit) (x : Word32) : u.SamePriority (u.writeSvr x) := by
  unfold ApicUnit.writeSvr
  split <;> exact ⟨rfl, rfl, rfl⟩

theorem ApicUnit.setLvt_samePriority (u : ApicUnit) (l : Lvt) (x : Word32) : u.SamePriority (u.setLvt l x) := by
  cases l <;> exact ⟨rfl, rfl, rfl⟩

theorem ApicUnit.writeLvt_samePriority (u : ApicUnit) (l : Lvt) (x : Word32) : u.SamePriority (u.writeLvt l x) := by
  have h := u.setLvt_samePriority l ((u.lvt l &&& 0x00004000#32) ||| x)
  unfold ApicUnit.writeLvt
  split
  · exact { h with }
  · exact h

theorem ApicUnit.setInitialCount_samePriority (u : ApicUnit) (now : Word64) (n : Word32) :
    u.SamePriority (u.setInitialCount now n) := by
  unfold ApicUnit.setInitialCount
  split <;> exact ⟨rfl, rfl, rfl⟩

theorem ApicUnit.expire_samePriority (u : ApicUnit) (now : Word64) : u.SamePriority (u.expire now) := by
  unfold ApicUnit.expire
  split <;> exact ⟨rfl, rfl, rfl⟩

/-! ## Every move -/

/-- An accepted `SET_BASE` resets the registers or leaves the priority alone (R252). -/
theorem ApicUnit.changeBase_priority {c : Config} {u : ApicUnit} {x : Word64} (i : Nat)
    (h : baseRejected c u x = false) : u.SamePriority (u.changeBase c i x) ∨ (u.changeBase c i x).PprOk := by
  obtain ⟨-, he⟩ | ⟨-, he⟩ | ⟨-, he⟩ := ApicUnit.changeBase_cases i h <;> rw [he]
  · exact .inr (u.regsReset_pprOk c i true)
  · exact .inl ⟨rfl, rfl, rfl⟩
  · exact .inl ⟨rfl, rfl, rfl⟩

/-- R122: what writes TPR or ISR runs `UPDATE_PPR` after it or resets all three; everything else leaves them alone. -/
theorem UnitMove.priority_cases {c : Config} {now : Word64} {i : Nat} {u u' : ApicUnit} (h : UnitMove c now i u u') :
    u.SamePriority u' ∨ u'.PprOk := by
  cases h with
  | powerOn => exact .inr (u.regsReset_pprOk c i true)
  | initReset => exact .inr (u.regsReset_pprOk c i false)
  | changeBase x hx => exact ApicUnit.changeBase_priority i hx
  | updatePpr => exact .inr u.updatePpr_pprOk
  | acknowledge v => exact .inr (ApicUnit.updatePpr_pprOk _)
  | endInterrupt v => exact .inr (ApicUnit.updatePpr_pprOk _)
  | queueToService v => exact .inr (ApicUnit.updatePpr_pprOk _)
  | dequeueFromService v => exact .inr (ApicUnit.updatePpr_pprOk _)
  | writeTpr x => exact .inr (ApicUnit.updatePpr_pprOk _)
  | stagePost v trig tag => exact .inl { u.setPib_samePriority trig _ with }
  | setNotify trig => exact .inl (u.setPib_samePriority trig _)
  | clearNotify trig => exact .inl (u.setPib_samePriority trig _)
  | drainWord trig k => exact .inl { u.setPib_samePriority trig _ with }
  | raiseSignal sig => exact .inl (u.raiseSignal_samePriority sig)
  | setInitialCount n => exact .inl (u.setInitialCount_samePriority now n)
  | expire _ => exact .inl (u.expire_samePriority now)
  | writeSvr x _ => exact .inl (u.writeSvr_samePriority x)
  | writeLvt l x _ => exact .inl (u.writeLvt_samePriority l x)
  | _ => exact .inl ⟨rfl, rfl, rfl⟩

theorem UnitMove.keeps_pprOk {c : Config} {now : Word64} {i : Nat} {u u' : ApicUnit} (h : UnitMove c now i u u')
    (hu : u.PprOk) : u'.PprOk := by
  obtain hsame | hok := h.priority_cases
  · exact hsame.pprOk hu
  · exact hok

/-- Settles O51: every move keeps `PprOk`, so every step does. -/
theorem stepKeepsPpr : Obligations.StepKeepsPpr := fun _ _ hs h =>
  step_keeps_all_units (P := ApicUnit.PprOk) (fun _ _ _ hm => hm.keeps_pprOk) h hs

end Sys2Proof.Machine
end

section
/-! The priority commands: `UPDATE_PPR` (O27), `SIGNAL_IF_PENDING` (O28), `GET_NEXT` (O29 to O31), `EOI` (O32) and the two
moves between IRR and ISR (O33, O34). The facts about sets and classes come first, then one equation per command. -/

namespace Sys2Proof.Machine

/-! ## Putting a vector into a set and taking it out -/

theorem clearVec_of_not_hasVec {r : VecSet} {v : Vec} (h : hasVec r v = false) : clearVec r v = r := by
  refine hasVec_ext fun w => ?_
  by_cases hw : w = v <;> simp [hw, h]

theorem setVec_clearVec {r : VecSet} {v : Vec} (h : hasVec r v = true) : setVec (clearVec r v) v = r := by
  refine hasVec_ext fun w => ?_
  by_cases hw : w = v <;> simp [hw, h]

theorem clearVec_setVec {r : VecSet} {v : Vec} (h : hasVec r v = false) : clearVec (setVec r v) v = r := by
  refine hasVec_ext fun w => ?_
  by_cases hw : w = v <;> simp [hw, h]

/-! ## Classes -/

theorem serviceClass_of_max {r : VecSet} {v : Vec} (h : hasVec r v = true)
    (hm : ∀ w : Vec, hasVec r w = true → w.toNat ≤ v.toNat) : serviceClass r = classOf v := by
  rw [serviceClass, highest_of_max h hm]

/-- No vector in service has a class above `ic` (R120). -/
theorem class_le_serviceClass {r : VecSet} {w : Vec} (h : hasVec r w = true) :
    w.toNat / 16 ≤ (serviceClass r).toNat := by
  cases hv : highest r with
  | none =>
    rw [highest_eq_none.mp hv] at h
    simp [hasVec] at h
  | some v =>
    obtain ⟨hmem, hmax⟩ := highest_is_max hv
    rw [serviceClass_of_max hmem hmax, classOf_toNat]
    exact Nat.div_le_div_right (hmax w h)

/-- A class with a zero low nibble, as the number `UPDATE_PPR` stores (R121). -/
theorem classOf_append_zero (v : Vec) : (classOf v ++ 0#4).setWidth 32 = BitVec.ofNat 32 (v.toNat / 16 * 16) := by
  refine BitVec.eq_of_toNat_eq ?_
  rw [BitVec.toNat_setWidth, BitVec.toNat_append, classOf_toNat, BitVec.toNat_ofNat, BitVec.toNat_ofNat,
    Nat.shiftLeft_eq]
  simp

/-- PPR with `v` the highest vector in service (R121). -/
theorem pprValue_of_max (tpr : Word32) {r : VecSet} {v : Vec} (h : hasVec r v = true)
    (hm : ∀ w : Vec, hasVec r w = true → w.toNat ≤ v.toNat) :
    pprValue tpr r =
      if v.toNat / 16 ≤ (tpr.extractLsb' 4 4).toNat then (tpr.extractLsb' 0 8).setWidth 32
      else BitVec.ofNat 32 (v.toNat / 16 * 16) := by
  rw [pprValue, serviceClass_of_max h hm, classOf_toNat, classOf_append_zero, taskClass]

/-- The class of PPR is at least the class of every vector in service (R121). -/
theorem class_le_pprClass (tpr : Word32) {r : VecSet} {w : Vec} (h : hasVec r w = true) :
    w.toNat / 16 ≤ ((pprValue tpr r).extractLsb' 4 4).toNat := by
  have hle := class_le_serviceClass h
  rw [pprValue_class]
  split
  · exact hle.trans ‹_›
  · exact hle

/-- A zero priority byte has class 0. -/
theorem class_zero_of_byte_zero {x : Word32} (h : x.extractLsb' 0 8 = 0#8) : x.extractLsb' 4 4 = 0#4 := by
  refine BitVec.eq_of_getLsbD_eq fun k hk => ?_
  have hbit := congrArg (·.getLsbD (4 + k)) h
  simpa [hk, show 4 + k < 8 by omega] using hbit

/-- A vector that passes both tests of `GET_NEXT` has a class above that of PPR: where the guard on a zero PPR lets it
pass, the test against TPR already said so (R126 (3)). -/
theorem pprClass_lt_of_unmasked {u : ApicUnit} {v : Vec} (htpr : (u.tpr.extractLsb' 4 4).toNat < v.toNat / 16)
    (hppr : ¬ (u.ppr.extractLsb' 0 8 ≠ 0#8 ∧ v.toNat / 16 ≤ (u.ppr.extractLsb' 4 4).toNat)) :
    (u.ppr.extractLsb' 4 4).toNat < v.toNat / 16 := by
  by_cases hzero : u.ppr.extractLsb' 0 8 = 0#8
  · rw [class_zero_of_byte_zero hzero]
    exact (Nat.zero_le _).trans_lt htpr
  · exact Nat.not_le.mp fun hle => hppr ⟨hzero, hle⟩

/-! ## The INTR flag -/

/-- `SIGNAL_IF_PENDING` raises INTR for a pending vector whose class is above every class in service (R123). -/
theorem ApicUnit.intrValue_iff (u : ApicUnit) :
    u.intrValue = true ↔ u.softEnabled = true ∧ ∃ p : Vec, hasVec u.irr p = true ∧
      ∀ v : Vec, hasVec u.isr v = true → v.toNat / 16 < p.toNat / 16 := by
  rw [ApicUnit.intrValue, Bool.and_eq_true_iff]
  refine and_congr_right fun _ => ?_
  cases hp : highest u.irr with
  | none => simp [highest_eq_none.mp hp, hasVec]
  | some p =>
    obtain ⟨hpend, hpmax⟩ := highest_is_max hp
    cases hv : highest u.isr with
    | none =>
      have hnone : ∀ w, hasVec u.isr w = false := by simp [highest_eq_none.mp hv, hasVec]
      simpa [hnone] using ⟨p, hpend⟩
    | some v =>
      obtain ⟨hserv, hvmax⟩ := highest_is_max hv
      simp only [decide_eq_true_eq, classOf_toNat]
      constructor
      · exact fun hlt => ⟨p, hpend, fun w hw => (Nat.div_le_div_right (hvmax w hw)).trans_lt hlt⟩
      · rintro ⟨q, hq, habove⟩
        exact (habove v hserv).trans_le (Nat.div_le_div_right (hpmax q hq))

/-- A unit that serves a vector no smaller than every pending one signals nothing (R126 (6)). -/
theorem ApicUnit.intrValue_of_serving_max {u : ApicUnit} {v : Vec} (hserv : hasVec u.isr v = true)
    (hmax : ∀ w : Vec, hasVec u.irr w = true → w.toNat ≤ v.toNat) : u.intrValue = false := by
  rw [Bool.eq_false_iff, Ne, ApicUnit.intrValue_iff]
  rintro ⟨-, p, hp, habove⟩
  exact absurd (habove v hserv) (Nat.not_lt.mpr (Nat.div_le_div_right (hmax p hp)))

/-! ## The commands on a unit that exists -/

section
variable {s : State} {i : Nat} {u : ApicUnit}

theorem onUnit_some (h : s.units[i]? = some u) (k : ApicUnit → State) : onUnit s i k = k u := by
  rw [onUnit, h]

theorem exec_updatePpr (h : s.units[i]? = some u) :
    exec (.updatePpr i) s = .next ((s.setUnit i u.updatePpr).respond .ok) :=
  congrArg Host.Outcome.next (onUnit_some h _)

theorem exec_signalIfPending (h : s.units[i]? = some u) :
    exec (.signalIfPending i) s = .next ((s.setUnit i u.signalIfPending).respond .ok) :=
  congrArg Host.Outcome.next (onUnit_some h _)

theorem exec_eoi (h : s.units[i]? = some u) (y : Word64) :
    exec (.eoi i y) s = .next ((s.endOfInterrupt i u).respond .ok) :=
  congrArg Host.Outcome.next (onUnit_some h _)

theorem exec_queueToService (h : s.units[i]? = some u) (v : Vec) :
    exec (.queueToService i v) s = .next ((s.setUnit i (u.queueToService v)).respond .ok) :=
  congrArg Host.Outcome.next (onUnit_some h _)

theorem exec_dequeueFromService (h : s.units[i]? = some u) (v : Vec) :
    exec (.dequeueFromService i v) s = .next ((s.setUnit i (u.dequeueFromService v)).respond .ok) :=
  congrArg Host.Outcome.next (onUnit_some h _)

/-- `GET_NEXT` on a disabled unit: case (a) of R125. -/
theorem exec_getNext_disabled (h : s.units[i]? = some u) (hoff : u.isEnabled = false ∨ u.softEnabled = false) :
    exec (.getNext i) s = .next (s.respond .notPending) :=
  congrArg Host.Outcome.next ((onUnit_some h _).trans (if_pos hoff))

/-- `GET_NEXT` with nothing pending: case (b) of R125, and (a) answers the same. -/
theorem exec_getNext_empty (h : s.units[i]? = some u) (hirr : u.irr = 0) :
    exec (.getNext i) s = .next (s.respond .notPending) := by
  refine congrArg Host.Outcome.next ((onUnit_some h _).trans ?_)
  rw [highest_eq_none.mpr hirr]
  exact ite_self _

/-- `GET_NEXT` on an enabled unit whose highest pending vector is `v`: cases (c) to (e) of R125. -/
theorem exec_getNext_pending {v : Vec} (h : s.units[i]? = some u) (hen : u.isEnabled = true)
    (hsoft : u.softEnabled = true) (hpend : hasVec u.irr v = true)
    (hmax : ∀ w : Vec, hasVec u.irr w = true → w.toNat ≤ v.toNat) :
    exec (.getNext i) s = .next
      (if v.toNat / 16 ≤ (u.tpr.extractLsb' 4 4).toNat then s.answer .maskedByTpr v 0 0
      else if u.ppr.extractLsb' 0 8 ≠ 0#8 ∧ v.toNat / 16 ≤ (u.ppr.extractLsb' 4 4).toNat then s.respond .notPending
      else (s.setUnit i (u.acknowledge v)).answer .ok v (u.tag.read v.toNat) 0) := by
  refine congrArg Host.Outcome.next ((onUnit_some h _).trans ?_)
  rw [highest_of_max hpend hmax, if_neg (by simp [hen, hsoft]), ← classOf_toNat]
  rfl

theorem endOfInterrupt_empty (hisr : u.isr = 0) : s.endOfInterrupt i u = s := by
  rw [State.endOfInterrupt, highest_eq_none.mpr hisr]

theorem endOfInterrupt_of_max {v : Vec} (hserv : hasVec u.isr v = true)
    (hmax : ∀ w : Vec, hasVec u.isr w = true → w.toNat ≤ v.toNat) :
    s.endOfInterrupt i u =
      (s.emit (if hasVec u.tmr v then [.busEoi i v] else [])).setUnit i (u.endInterrupt v) := by
  rw [State.endOfInterrupt, highest_of_max hserv hmax]

/-- A unit that was stored is the one the next command finds. -/
theorem setUnit_getElem? (h : s.units[i]? = some u) (u' : ApicUnit) : (s.setUnit i u').units[i]? = some u' := by
  obtain ⟨hi, -⟩ := List.getElem?_eq_some_iff.mp h
  exact List.getElem?_set_self hi

theorem units_set_self (h : s.units[i]? = some u) : s.units.set i u = s.units := by
  obtain ⟨hi, rfl⟩ := List.getElem?_eq_some_iff.mp h
  exact List.set_getElem_self hi

/-- `QUEUE_TO_SERVICE` and then `DEQUEUE_FROM_SERVICE` of one vector (R131, R132). -/
theorem exec_queue_dequeue (h : s.units[i]? = some u) (v : Vec) :
    ∃ t r, exec (.queueToService i v) s = .next t ∧ exec (.dequeueFromService i v) t = .next r ∧
      r.units = s.units.set i ((u.queueToService v).dequeueFromService v) :=
  ⟨_, _, exec_queueToService h v, exec_dequeueFromService (setUnit_getElem? h _) v, List.set_set ..⟩

/-- `DEQUEUE_FROM_SERVICE` and then `QUEUE_TO_SERVICE` of one vector (R131, R132). -/
theorem exec_dequeue_queue (h : s.units[i]? = some u) (v : Vec) :
    ∃ t r, exec (.dequeueFromService i v) s = .next t ∧ exec (.queueToService i v) t = .next r ∧
      r.units = s.units.set i ((u.dequeueFromService v).queueToService v) :=
  ⟨_, _, exec_dequeueFromService h v, exec_queueToService (setUnit_getElem? h _) v, List.set_set ..⟩

end

/-! ## The commands on the registers of the unit -/

/-- Delivering the highest pending vector clears INTR (R125 (e), R126 (6)). -/
theorem ApicUnit.acknowledge_of_max {u : ApicUnit} {v : Vec}
    (hmax : ∀ w : Vec, hasVec u.irr w = true → w.toNat ≤ v.toNat) :
    u.acknowledge v = { u with
      irr := clearVec u.irr v
      isr := setVec u.isr v
      ppr := pprValue u.tpr (setVec u.isr v)
      intr := false
      tag := u.tag.write v.toNat 0 } := by
  have hintr : { u with irr := clearVec u.irr v, isr := setVec u.isr v }.updatePpr.intrValue = false := by
    refine ApicUnit.intrValue_of_serving_max (v := v) ?_ fun w hw => ?_
    · simp
    · simp only [ApicUnit.updatePpr_irr, hasVec_clearVec, Bool.and_eq_true_iff] at hw
      exact hmax w hw.1
  rw [← hintr]
  rfl

/-- `EOI` clears the TMR bit in any case; the LINT0 latch goes when the vector was level-triggered and is LINT0's
(R128). -/
theorem ApicUnit.endInterrupt_eq (u : ApicUnit) (v : Vec) :
    u.endInterrupt v = { u with
      isr := clearVec u.isr v
      tmr := clearVec u.tmr v
      lvtLint0 := if hasVec u.tmr v = true ∧ u.lvtLint0.extractLsb' 0 8 = v then u.lvtLint0 &&& ~~~0x4000#32
        else u.lvtLint0
      ppr := pprValue u.tpr (clearVec u.isr v)
      intr := { u with isr := clearVec u.isr v }.intrValue } := by
  cases hlevel : hasVec u.tmr v with
  | true =>
    rw [ApicUnit.endInterrupt, if_pos hlevel]
    simp only [true_and]
    rfl
  | false =>
    rw [clearVec_of_not_hasVec hlevel, ApicUnit.endInterrupt, if_neg (by simp [hlevel])]
    simp only [Bool.false_eq_true, false_and, if_false]
    rfl

/-- Committing a pending vector that was not in service and undoing it gives the unit back (R133). -/
theorem ApicUnit.dequeue_queue {u : ApicUnit} {v : Vec} (hppr : u.PprOk) (hirr : hasVec u.irr v = true)
    (hisr : hasVec u.isr v = false) : (u.queueToService v).dequeueFromService v = u := by
  have hkept : pprValue u.tpr u.isr = u.ppr := hppr.symm
  have hundone : (u.queueToService v).dequeueFromService v = { u with
      irr := setVec (clearVec u.irr v) v
      isr := clearVec (setVec u.isr v) v
      ppr := pprValue u.tpr (clearVec (setVec u.isr v) v) } := rfl
  rw [hundone, setVec_clearVec hirr, clearVec_setVec hisr, hkept]

/-- Taking a vector out of service and committing it again gives the unit back (R133). -/
theorem ApicUnit.queue_dequeue {u : ApicUnit} {v : Vec} (hppr : u.PprOk) (hirr : hasVec u.irr v = false)
    (hisr : hasVec u.isr v = true) : (u.dequeueFromService v).queueToService v = u := by
  have hkept : pprValue u.tpr u.isr = u.ppr := hppr.symm
  have hredone : (u.dequeueFromService v).queueToService v = { u with
      irr := clearVec (setVec u.irr v) v
      isr := setVec (clearVec u.isr v) v
      ppr := pprValue u.tpr (setVec (clearVec u.isr v) v) } := rfl
  rw [hredone, clearVec_setVec hirr, setVec_clearVec hisr, hkept]

/-- A vector that was dequeued is pending. -/
theorem ApicUnit.dequeueFromService_pending (u : ApicUnit) (v : Vec) :
    hasVec (u.dequeueFromService v).irr v = true := by
  simp [ApicUnit.dequeueFromService]

/-- Undoing a delivery gives IRR, ISR and PPR back (R133). -/
theorem ApicUnit.dequeue_acknowledge {u : ApicUnit} {v : Vec} (hppr : u.PprOk) (hirr : hasVec u.irr v = true)
    (hisr : hasVec u.isr v = false) :
    ((u.acknowledge v).dequeueFromService v).irr = u.irr ∧ ((u.acknowledge v).dequeueFromService v).isr = u.isr ∧
      ((u.acknowledge v).dequeueFromService v).ppr = u.ppr :=
  ⟨setVec_clearVec hirr, clearVec_setVec hisr, (congrArg (pprValue u.tpr) (clearVec_setVec hisr)).trans hppr.symm⟩

/-! ## The statements -/

/-- Settles O27: the two cases are those of `pprValue`, nothing in service and a highest vector in service. -/
theorem updatePprResult : Obligations.UpdatePprResult := by
  intro s i u h
  refine ⟨fun hisr => ?_, fun v hserv hmax => ?_⟩
  · rw [exec_updatePpr h, ← pprValue_isr_empty, ← hisr]
    rfl
  · rw [exec_updatePpr h, ← pprValue_of_max u.tpr hserv hmax]
    rfl

/-- Settles O28: the bit is `intrValue`, which `intrValue_iff` reads off. -/
theorem signalIfPendingResult : Obligations.SignalIfPendingResult :=
  fun _ _ u h => ⟨u.intrValue, exec_signalIfPending h, rfl, u.intrValue_iff⟩

/-- Settles O29: nothing masks the vector, so the last case of `exec_getNext_pending` is taken. -/
theorem getNextDelivers : Obligations.GetNextDelivers := by
  intro s i u v h hen hsoft hpend hmax htpr hppr
  have hunmasked : ¬ (u.ppr.extractLsb' 0 8 ≠ 0#8 ∧ v.toNat / 16 ≤ (u.ppr.extractLsb' 4 4).toNat) := by
    rintro ⟨hne, hle⟩
    exact hppr.elim hne (Nat.not_lt.mpr hle)
  rw [exec_getNext_pending h hen hsoft hpend hmax, if_neg (Nat.not_le.mpr htpr), if_neg hunmasked,
    ApicUnit.acknowledge_of_max hmax]
  rfl

/-- Settles O30, by the cases (a) to (d) of R125. -/
theorem getNextWithholds : Obligations.GetNextWithholds := by
  intro s i u h
  refine ⟨exec_getNext_disabled h, exec_getNext_empty h, fun v hen hsoft hpend hmax => ⟨fun hle => ?_, ?_⟩⟩
  · rw [exec_getNext_pending h hen hsoft hpend hmax, if_pos hle]
    rfl
  · intro hlt hne hle
    rw [exec_getNext_pending h hen hsoft hpend hmax, if_neg (Nat.not_le.mpr hlt), if_pos ⟨hne, hle⟩]
    rfl

/-- Settles O31: the class of PPR, which a delivered vector exceeds, is at least every class in service. -/
theorem getNextRespectsPriority : Obligations.GetNextRespectsPriority := by
  intro s t i u v g h hppr hexec hrsp
  obtain ⟨-, -, hhigh, htpr, hmask, -⟩ := getNext_ok h hexec hrsp
  rw [classOf_toNat] at htpr hmask
  have habove : (u.ppr.extractLsb' 4 4).toNat < v.toNat / 16 := pprClass_lt_of_unmasked (Nat.not_le.mp htpr) hmask
  rw [hppr] at habove
  exact ⟨Nat.not_le.mp htpr, fun w hw => (class_le_pprClass u.tpr hw).trans_lt habove, highest_is_max hhigh⟩

/-- Settles O32: with nothing in service the state stays, else the highest vector is ended as `endInterrupt_eq` says. -/
theorem eoiResult : Obligations.EoiResult := by
  intro s i u y h
  refine ⟨fun hisr => ?_, fun v hserv hmax => ?_⟩
  · rw [exec_eoi h, endOfInterrupt_empty hisr]
    rfl
  · rw [exec_eoi h, endOfInterrupt_of_max hserv hmax, ApicUnit.endInterrupt_eq]
    rfl

/-- Settles O33: neither move tests anything of the unit. -/
theorem serviceMoves : Obligations.ServiceMoves :=
  fun _ _ _ v h => ⟨exec_queueToService h v, exec_dequeueFromService h v⟩

/-- Settles O34. A delivered vector was not in service: its class is above every class in service (O31). -/
theorem serviceMovesInverse : Obligations.ServiceMovesInverse := by
  intro s i u v h hppr
  refine ⟨fun hirr hisr => ?_, fun hirr hisr => ?_, fun _ _ => ?_, fun t g hexec hrsp => ?_⟩
  · obtain ⟨t, r, ht, hr, hunits⟩ := exec_queue_dequeue h v
    exact ⟨t, r, ht, hr, by rw [hunits, ApicUnit.dequeue_queue hppr hirr hisr, units_set_self h]⟩
  · obtain ⟨t, r, ht, hr, hunits⟩ := exec_dequeue_queue h v
    exact ⟨t, r, ht, hr, by rw [hunits, ApicUnit.queue_dequeue hppr hirr hisr, units_set_self h]⟩
  · obtain ⟨t, r, ht, hr, hunits⟩ := exec_queue_dequeue h v
    refine ⟨t, r, _, ht, hr, ?_, (u.queueToService v).dequeueFromService_pending v⟩
    rw [hunits]
    exact setUnit_getElem? h _
  · obtain ⟨-, habove, hpend, -⟩ := getNextRespectsPriority s t i u v g h hppr hexec hrsp
    have hserv : hasVec u.isr v = false := Bool.eq_false_iff.mpr fun hv => absurd (habove v hv) (Nat.lt_irrefl _)
    obtain ⟨-, -, -, -, -, rfl⟩ := getNext_ok h hexec hrsp
    have hdelivered := setUnit_getElem? h (u.acknowledge v)
    obtain ⟨hirr, hisr, hppr'⟩ := ApicUnit.dequeue_acknowledge hppr hpend hserv
    exact ⟨_, _, exec_dequeueFromService hdelivered v, setUnit_getElem? hdelivered _, hirr, hisr, hppr', rfl,
      congrArg (Option.map ApicUnit.intr) hdelivered⟩

end Sys2Proof.Machine
end

section
/-! The interrupt fold engine: a whole `POST` (O35), a whole `FOLD` (O36), and the one after the other (O37). What the three
steps of a post and the ten of a fold do is `runSteps_post` and `runSteps_fold`; here each becomes an equation of its
command. -/

namespace Sys2Proof.Machine

/-! ## A post and a fold as whole commands -/

section
variable {s : State} {i : Nat} {u : ApicUnit}

theorem planOnUnit_some (h : s.units[i]? = some u) (k : ApicUnit → Plan) : planOnUnit s i k = k u := by
  rw [planOnUnit, h]

/-- A post run whole to a unit that exists (R152). -/
theorem exec_post_some (h : s.units[i]? = some u) (v : Vec) (trig : Trigger) (tag : Word32) :
    exec (.post i v trig tag) s = .next { s with
      units := s.units.set i (u.posted v trig tag)
      out := s.out ++ (if u.postWakes v trig = true then [.wake i] else [])
      rsp := responseWord (if v.toNat ≤ 15 then .notAccepted else .ok) 0 0 0 } := by
  obtain ⟨hstate, hacc⟩ := runSteps_post v trig tag false h
  have hstatus : Finish.accepted.status (runSteps (postSteps i v trig tag) s ⟨true, false⟩).2 =
      if v.toNat ≤ 15 then .notAccepted else .ok := by
    rw [Finish.status, hacc]
    by_cases hv : v.toNat ≤ 15
    · simp [hv]
    · simp [hv, Nat.lt_of_not_le hv]
  refine congrArg Host.Outcome.next ?_
  rw [planPost, planOnUnit_some h, Plan.complete, hstatus, hstate]
  rfl

/-- A post to a unit that does not exist (R81). -/
theorem exec_post_none (h : s.units[i]? = none) (v : Vec) (trig : Trigger) (tag : Word32) :
    exec (.post i v trig tag) s = .next (s.respond .contractViolation) := by
  refine congrArg Host.Outcome.next ?_
  rw [planPost, planOnUnit, h]
  rfl

/-- A unit after a whole fold: both bitmaps drained, INTR rechecked if a bit was drained (R156). -/
def ApicUnit.folded (u : ApicUnit) : ApicUnit :=
  { drained u with intr := if u.pibE.bits = 0 ∧ u.pibL.bits = 0 then u.intr else (drained u).intrValue }

/-- A fold run whole on a unit that exists (R156). -/
theorem exec_fold_some (h : s.units[i]? = some u) :
    exec (.fold i) s = .next { s with units := s.units.set i u.folded, rsp := responseWord .ok 0 0 0 } := by
  have hfolded : (if u.pibE.bits = 0 ∧ u.pibL.bits = 0 then drained u else (drained u).signalIfPending) = u.folded := by
    unfold ApicUnit.folded
    split <;> rfl
  refine congrArg Host.Outcome.next ?_
  rw [planFold, planOnUnit_some h, Plan.complete, runSteps_fold h, hfolded]
  rfl

end

/-! ## What a post leaves in the bitmaps -/

/-- A staged post raises FOLD_REQ (R39, R152). -/
theorem posted_foldReq {u : ApicUnit} {v : Vec} (h : u.stages v = true) (trig : Trigger) (tag : Word32) :
    (u.posted v trig tag).foldReq = true := by
  have hnotify : ((u.posted v trig tag).pib trig).notify = true := by simp [posted_notify, h]
  refine Bool.or_eq_true_iff.mpr ?_
  cases trig with
  | edge => exact .inl hnotify
  | level => exact .inr hnotify

theorem hasVec_or (r r' : VecSet) (v : Vec) : hasVec (r ||| r') v = (hasVec r v || hasVec r' v) :=
  BitVec.getLsbD_or

/-- A vector accepted by a post is pending already or is staged (R152). -/
theorem posted_staged_or_pending {v : Vec} (hv : 15 < v.toNat) (u : ApicUnit) (trig : Trigger) (tag : Word32) :
    (u.posted v trig tag).staged v = true ∨ hasVec (u.posted v trig tag).irr v = true := by
  cases hp : hasVec u.irr v with
  | true => exact .inr (by rw [posted_irr, hp])
  | false =>
    refine .inl ?_
    rw [posted_of_stages (by simp [ApicUnit.stages, hv, hp])]
    cases trig <;> simp [ApicUnit.staged, ApicUnit.stage, ApicUnit.setNotify, ApicUnit.stagePost, ApicUnit.pib,
      ApicUnit.setPib]

/-- What was staged or pending is pending after a fold (R156). -/
theorem folded_pending {u : ApicUnit} {v : Vec} (h : u.staged v = true ∨ hasVec u.irr v = true) :
    hasVec u.folded.irr v = true := by
  have hirr : u.folded.irr = u.irr ||| u.pibE.bits ||| u.pibL.bits := rfl
  rw [hirr, hasVec_or, hasVec_or, Bool.or_assoc, Bool.or_eq_true]
  exact h.symm

/-- A post that answers OK found its unit, and its vector is legal (R81, R152). -/
theorem post_ok {s t : State} {i : Nat} {v : Vec} {trig : Trigger} {tag : Word32}
    (h : exec (.post i v trig tag) s = .next t) (hok : t.rsp = responseWord .ok 0 0 0) :
    ∃ u : ApicUnit, 15 < v.toNat ∧ t.units[i]? = some (u.posted v trig tag) := by
  cases hu : s.units[i]? with
  | none =>
    rw [exec_post_none hu] at h
    cases h
    exact absurd hok (by decide : responseWord .contractViolation 0 0 0 ≠ responseWord .ok 0 0 0)
  | some u =>
    rw [exec_post_some hu] at h
    cases h
    by_cases hv : v.toNat ≤ 15
    · dsimp only at hok
      rw [if_pos hv] at hok
      exact absurd hok (by decide)
    · exact ⟨u, Nat.lt_of_not_le hv, setUnit_getElem? hu _⟩

/-! ## The statements -/

/-- Settles O35: the units, the wake and the answer by `exec_post_some`, FOLD_REQ by `posted_foldReq`. -/
theorem postResult : Obligations.PostResult := fun _ _ _ v trig tag h =>
  ⟨exec_post_some h v trig tag, fun hv hp => posted_foldReq (by simp [ApicUnit.stages, hv, hp]) trig tag⟩

/-- Settles O36: the fold by `exec_fold_some`, which leaves both flags clear. -/
theorem foldResult : Obligations.FoldResult :=
  ⟨fun _ => Bool.or_eq_true_iff, fun _ _ _ h => ⟨exec_fold_some h, rfl⟩⟩

/-- Settles O37: the accepted vector is staged or pending after the post, and so pending after the fold. -/
theorem postVisibleAfterFold : Obligations.PostVisibleAfterFold := by
  intro s t r i v trig tag hpost hok hfold
  obtain ⟨u, hv, hu⟩ := post_ok hpost hok
  rw [exec_fold_some hu] at hfold
  cases hfold
  exact ⟨_, setUnit_getElem? hu _, folded_pending (posted_staged_or_pending hv u trig tag)⟩

end Sys2Proof.Machine
end

section
/-! Relations between a unit before and after: what holds of every unit, said once for the operations on the state, and what
each atomic step does to a unit. A relation that composes is carried from the atomic steps to a whole command. -/

namespace Sys2Proof.Machine

/-! ## Every unit before and after -/

/-- Every unit of `s` is in `t` too, and `R` holds of its index and its state before and after. -/
def State.EachUnit (R : Nat → ApicUnit → ApicUnit → Prop) (s t : State) : Prop :=
  ∀ (i : Nat) (u : ApicUnit), s.units[i]? = some u → ∃ u', t.units[i]? = some u' ∧ R i u u'

namespace State.EachUnit

variable {R R' : Nat → ApicUnit → ApicUnit → Prop} {s t r : State}

theorem get (h : EachUnit R s t) {i : Nat} {u u' : ApicUnit} (hu : s.units[i]? = some u)
    (hu' : t.units[i]? = some u') : R i u u' := by
  obtain ⟨w, hw, hr⟩ := h i u hu
  obtain rfl := Option.some.inj (hw.symm.trans hu')
  exact hr

theorem mono (h : EachUnit R s t) (hR : ∀ i u u', R i u u' → R' i u u') : EachUnit R' s t := by
  intro i u hu
  obtain ⟨u', hu', hr⟩ := h i u hu
  exact ⟨u', hu', hR i u u' hr⟩

theorem of_units_eq (hrefl : ∀ i u, R i u u) (h : t.units = s.units) : EachUnit R s t :=
  fun i u hu => ⟨u, by rwa [h], hrefl i u⟩

theorem trans (htrans : ∀ i u u' u'', R i u u' → R i u' u'' → R i u u'') (h : EachUnit R s t) (h' : EachUnit R t r) :
    EachUnit R s r := by
  intro i u hu
  obtain ⟨u', hu', hr⟩ := h i u hu
  obtain ⟨u'', hu'', hr'⟩ := h' i u' hu'
  exact ⟨u'', hu'', htrans i u u' u'' hr hr'⟩

theorem setUnit (hrefl : ∀ i u, R i u u) {i : Nat} {u u' : ApicUnit} (h : s.units[i]? = some u) (hr : R i u u') :
    EachUnit R s (s.setUnit i u') := by
  intro j w hw
  by_cases hij : i = j
  · subst hij
    obtain rfl := Option.some.inj (h.symm.trans hw)
    exact ⟨u', setUnit_getElem? h u', hr⟩
  · exact ⟨w, (List.getElem?_set_ne hij).trans hw, hrefl j w⟩

theorem mapUnit (hrefl : ∀ i u, R i u u) (i : Nat) {f : ApicUnit → ApicUnit} (hr : ∀ u, R i u (f u)) :
    EachUnit R s (s.mapUnit i f) := by
  unfold State.mapUnit
  split
  · exact of_units_eq hrefl rfl
  · rename_i u hu
    exact setUnit hrefl hu (hr u)

theorem onUnit (hrefl : ∀ i u, R i u u) {i : Nat} {k : ApicUnit → State}
    (h : ∀ u, s.units[i]? = some u → EachUnit R s (k u)) : EachUnit R s (onUnit s i k) := by
  unfold Machine.onUnit
  split
  · exact of_units_eq hrefl rfl
  · rename_i u hu
    exact h u hu

theorem planOnUnit (hrefl : ∀ i u, R i u u) {i : Nat} {k : ApicUnit → Plan}
    (h : ∀ u, s.units[i]? = some u → EachUnit R s (k u).state) : EachUnit R s (planOnUnit s i k).state := by
  unfold Machine.planOnUnit
  split
  · exact of_units_eq hrefl rfl
  · rename_i u hu
    exact h u hu

end State.EachUnit

/-! ## What an atomic step does to a unit -/

/-- What one atomic step can do to unit i (R152, R156, R200, R202, R211). -/
inductive AtomicStep.Does : AtomicStep → Nat → ApicUnit → ApicUnit → Prop where
  | nothing (a : AtomicStep) (i : Nat) (u : ApicUnit) : Does a i u u
  | receiveError (i : Nat) (v : Vec) (u : ApicUnit) : Does (.postRead i v) i u (u.orEsr esrReceiveIllegal)
  | stagePost (i : Nat) (v : Vec) (trig : Trigger) (tag : Word32) (u : ApicUnit) :
      Does (.postSet i v trig tag) i u (u.stagePost v trig tag)
  | setNotify (i : Nat) (trig : Trigger) (u : ApicUnit) : Does (.postNotify i trig) i u (u.setNotify trig)
  | raiseSignal (i : Nat) (sig : Signal) (u : ApicUnit) : Does (.raiseSignal i sig) i u (u.raiseSignal sig)
  | sendError (i : Nat) (u : ApicUnit) : Does (.recordSendError i) i u (u.orEsr esrSendIllegal)
  | clearNotify (i : Nat) (trig : Trigger) (u : ApicUnit) : Does (.foldNotify i trig) i u (u.clearNotify trig)
  | drainWord (i : Nat) (trig : Trigger) (k : Fin 4) (u : ApicUnit) : Does (.foldWord i trig k) i u (u.drainWord trig k)
  | drainLast (i : Nat) (trig : Trigger) (k : Fin 4) (u : ApicUnit) :
      Does (.foldWord i trig k) i u (u.drainWord trig k).signalIfPending
  | latch (i : Nat) (u : ApicUnit) : Does (.latchLint0 i) i u { u with lvtLint0 := u.lvtLint0 ||| 1#32 <<< 14 }

/-- An atomic step does to every unit what `Does` lists. -/
theorem atomicStep_does (a : AtomicStep) (s : State) (p : Progress) : State.EachUnit a.Does s (atomicStep a s p).1 := by
  have hrefl : ∀ i u, a.Does i u u := .nothing a
  cases a with
  | enableCheck t seen => exact .of_units_eq hrefl rfl
  | postRead t v =>
    simp only [atomicStep]
    split
    · exact .of_units_eq hrefl rfl
    · split
      · exact .mapUnit hrefl t (.receiveError t v)
      · split <;> exact .of_units_eq hrefl rfl
  | postSet t v trig tag =>
    simp only [atomicStep]
    split
    · exact .mapUnit hrefl t (.stagePost t v trig tag)
    · exact .of_units_eq hrefl rfl
  | postNotify t trig =>
    simp only [atomicStep]
    split
    · exact State.EachUnit.mapUnit (s := s.emit _) hrefl t (.setNotify t trig)
    · exact .of_units_eq hrefl rfl
  | raiseSignal t sig => exact .mapUnit hrefl t (.raiseSignal t sig)
  | emitEvent e => exact .of_units_eq hrefl rfl
  | recordSendError t => exact .mapUnit hrefl t (.sendError t)
  | foldNotify t trig => exact .mapUnit hrefl t (.clearNotify t trig)
  | foldWord t trig k =>
    refine .mapUnit hrefl t fun u => ?_
    split
    · exact .drainLast t trig k u
    · exact .drainWord t trig k u
  | latchLint0 t =>
    simp only [atomicStep]
    split
    · exact .mapUnit hrefl t (.latch t)
    · exact .of_units_eq hrefl rfl

section
variable {R : Nat → ApicUnit → ApicUnit → Prop} (hrefl : ∀ i u, R i u u)
  (htrans : ∀ i u u' u'', R i u u' → R i u' u'' → R i u u'')
include hrefl htrans

/-- A relation that composes and holds of each of the steps holds of all of them together. -/
theorem runSteps_eachUnit {as : List AtomicStep} (h : ∀ a ∈ as, ∀ i u u', a.Does i u u' → R i u u') (s : State)
    (p : Progress) : State.EachUnit R s (runSteps as s p).1 := by
  induction as generalizing s p with
  | nil => exact .of_units_eq hrefl rfl
  | cons a rest ih =>
    exact ((atomicStep_does a s p).mono (h a (by simp))).trans htrans (ih (fun b hb => h b (by simp [hb])) _ _)

/-- A relation that composes and holds of the first step of a plan and of each that is left holds of the command run
whole. -/
theorem complete_eachUnit {s : State} {p : Plan} (hstate : State.EachUnit R s p.state)
    (h : ∀ a ∈ p.todo, ∀ i u u', a.Does i u u' → R i u u') : State.EachUnit R s p.complete :=
  hstate.trans htrans (runSteps_eachUnit hrefl htrans h p.state p.progress)

end

end Sys2Proof.Machine
end

section
/-! A staged vector is not lost (O56). The steps of a post, a fold and a send, and every register write, keep a vector staged
or pending; the two moves that take a vector out of IRR leave the bitmaps alone. -/

namespace Sys2Proof.Machine

/-! ## Staged or pending -/

/-- A vector that has been posted and not yet delivered: staged, or pending in IRR (R32, R267). -/
def ApicUnit.holds (u : ApicUnit) (v : Vec) : Bool := u.staged v || hasVec u.irr v

/-- A vector held before is held after. -/
def KeepsHeld (v : Vec) (_ : Nat) (u u' : ApicUnit) : Prop := u.holds v = true → u'.holds v = true

theorem KeepsHeld.refl (v : Vec) (i : Nat) (u : ApicUnit) : KeepsHeld v i u u := id

theorem KeepsHeld.trans {v : Vec} (i : Nat) (u u' u'' : ApicUnit) (h : KeepsHeld v i u u') (h' : KeepsHeld v i u' u'') :
    KeepsHeld v i u u'' :=
  fun hu => h' (h hu)

/-- What a step may do to a staged vector: it is held after the step, or the step took a command that may reset the unit. -/
def KeepsStaged (v : Vec) (c : Instr) (i : Nat) (u u' : ApicUnit) : Prop :=
  u.staged v = true → u'.holds v = true ∨ resetsUnit i c

theorem KeepsStaged.of_staged {v : Vec} {c : Instr} {i : Nat} {u u' : ApicUnit} (h : u'.staged v = u.staged v) :
    KeepsStaged v c i u u' :=
  fun hu => .inl (Bool.or_eq_true_iff.mpr (.inl (h.trans hu)))

theorem KeepsHeld.keepsStaged {v : Vec} {i : Nat} {u u' : ApicUnit} (h : KeepsHeld v i u u') (c : Instr) :
    KeepsStaged v c i u u' :=
  fun hu => .inl (h (Bool.or_eq_true_iff.mpr (.inl hu)))

theorem eachUnit_keepsStaged {v : Vec} {s t : State} (h : State.EachUnit (KeepsHeld v) s t) (c : Instr) :
    State.EachUnit (KeepsStaged v c) s t :=
  h.mono fun _ _ _ hk => hk.keepsStaged c

/-! ## The atomic steps -/

theorem hasVec_and (r r' : VecSet) (v : Vec) : hasVec (r &&& r') v = (hasVec r v && hasVec r' v) :=
  BitVec.getLsbD_and

theorem hasVec_not (r : VecSet) (v : Vec) : hasVec (~~~r) v = !hasVec r v := by
  simp [hasVec, v.isLt]

/-- Draining a word moves its vectors from the bitmap to IRR (R156). -/
theorem drainWord_holds (u : ApicUnit) (trig : Trigger) (k : Fin 4) (v : Vec) :
    (u.drainWord trig k).holds v = u.holds v := by
  cases trig <;>
    simp only [ApicUnit.holds, ApicUnit.staged, ApicUnit.drainWord, ApicUnit.pib, ApicUnit.setPib, hasVec_or, hasVec_and,
      hasVec_not] <;>
    cases hasVec (wordMask k) v <;> simp [Bool.or_comm, Bool.or_left_comm, Bool.or_assoc]

theorem setNotify_holds (u : ApicUnit) (trig : Trigger) (v : Vec) : (u.setNotify trig).holds v = u.holds v := by
  cases trig <;> rfl

theorem clearNotify_holds (u : ApicUnit) (trig : Trigger) (v : Vec) : (u.clearNotify trig).holds v = u.holds v := by
  cases trig <;> rfl

theorem raiseSignal_holds (u : ApicUnit) (sig : Signal) (v : Vec) : (u.raiseSignal sig).holds v = u.holds v := by
  cases sig <;> rfl

/-- Staging a vector keeps those that are held (R152). -/
theorem stagePost_keepsHeld (u : ApicUnit) (w : Vec) (trig : Trigger) (tag : Word32) (v : Vec) (i : Nat) :
    KeepsHeld v i u (u.stagePost w trig tag) := by
  intro hu
  cases trig <;>
    simp only [ApicUnit.holds, ApicUnit.staged, ApicUnit.stagePost, ApicUnit.pib, ApicUnit.setPib, hasVec_setVec,
      Bool.or_eq_true] at hu ⊢ <;>
    tauto

/-- No atomic step loses a vector (R152, R156, R200). -/
theorem AtomicStep.Does.keepsHeld {a : AtomicStep} {i : Nat} {u u' : ApicUnit} (h : a.Does i u u') (v : Vec) :
    KeepsHeld v i u u' := by
  cases h with
  | stagePost _ w trig tag => exact stagePost_keepsHeld u w trig tag v i
  | setNotify _ trig => exact (setNotify_holds u trig v).trans
  | clearNotify _ trig => exact (clearNotify_holds u trig v).trans
  | raiseSignal _ sig => exact (raiseSignal_holds u sig v).trans
  | drainWord _ trig k => exact (drainWord_holds u trig k v).trans
  | drainLast _ trig k => exact (drainWord_holds u trig k v).trans
  | _ => exact id

/-! ## The register writes -/

theorem endInterrupt_holds (u : ApicUnit) (w v : Vec) : (u.endInterrupt w).holds v = u.holds v := by
  unfold ApicUnit.endInterrupt
  cases hasVec u.tmr w <;> rfl

theorem writeSvr_holds (u : ApicUnit) (x : Word32) (v : Vec) : (u.writeSvr x).holds v = u.holds v := by
  unfold ApicUnit.writeSvr
  split <;> rfl

theorem writeLvt_holds (u : ApicUnit) (l : Lvt) (x : Word32) (v : Vec) : (u.writeLvt l x).holds v = u.holds v := by
  unfold ApicUnit.writeLvt
  cases l <;> simp only [] <;> split <;> rfl

theorem setInitialCount_holds (u : ApicUnit) (now : Word64) (n : Word32) (v : Vec) :
    (u.setInitialCount now n).holds v = u.holds v := by
  unfold ApicUnit.setInitialCount
  split <;> rfl

theorem expire_holds (u : ApicUnit) (now : Word64) (v : Vec) : (u.expire now).holds v = u.holds v := by
  unfold ApicUnit.expire
  split <;> rfl

section
variable {s : State} {i : Nat} {u : ApicUnit} (v : Vec)

theorem setUnit_keepsHeld (h : s.units[i]? = some u) {u' : ApicUnit} (hv : u'.holds v = u.holds v) :
    State.EachUnit (KeepsHeld v) s (s.setUnit i u') :=
  .setUnit (KeepsHeld.refl v) h hv.trans

theorem units_eq_keepsHeld {t : State} (h : t.units = s.units) : State.EachUnit (KeepsHeld v) s t :=
  .of_units_eq (KeepsHeld.refl v) h

theorem endOfInterrupt_keepsHeld (h : s.units[i]? = some u) :
    State.EachUnit (KeepsHeld v) s (s.endOfInterrupt i u) := by
  unfold State.endOfInterrupt
  split
  · exact units_eq_keepsHeld v rfl
  · exact setUnit_keepsHeld (s := s.emit _) v h (endInterrupt_holds u _ v)

/-- No register write touches the bitmaps or IRR (R235 to R246). -/
theorem writeEffect_keepsHeld (r : Reg) (x : Word32) (priv : Bool) (h : s.units[i]? = some u) :
    State.EachUnit (KeepsHeld v) s (writeEffect s i u r x priv).state := by
  cases r with
  | tpr => exact setUnit_keepsHeld v h rfl
  | eoi => exact endOfInterrupt_keepsHeld v h
  | svr => exact setUnit_keepsHeld v h (writeSvr_holds u x v)
  | ldr => exact setUnit_keepsHeld v h rfl
  | dfr => exact setUnit_keepsHeld v h rfl
  | esr => exact setUnit_keepsHeld v h rfl
  | icrHi => exact setUnit_keepsHeld v h rfl
  | icrLo =>
    simp only [writeEffect, writeIcrLo, sendFromIcr_state]
    exact setUnit_keepsHeld v h rfl
  | lvt l => exact setUnit_keepsHeld v h (writeLvt_holds u l x v)
  | timerIcr => exact setUnit_keepsHeld v h (setInitialCount_holds u s.vt x v)
  | timerDcr => exact setUnit_keepsHeld v h rfl
  | _ => exact units_eq_keepsHeld v rfl

end

/-! ## The first step of a command -/

section
variable (v : Vec) (s : State)

theorem planWriteReg_keepsHeld (i : Nat) (off x : Word32) (priv : Bool) :
    State.EachUnit (KeepsHeld v) s (planWriteReg i off x priv s).state := by
  refine .planOnUnit (KeepsHeld.refl v) fun u hu => ?_
  split
  · exact units_eq_keepsHeld v rfl
  · split
    · exact units_eq_keepsHeld v rfl
    · split
      · exact units_eq_keepsHeld v rfl
      · split
        · exact units_eq_keepsHeld v rfl
        · exact writeEffect_keepsHeld v _ _ priv hu

theorem planWriteMsr_keepsHeld (i : Nat) (idx : Word32) (x : Word64) (priv : Bool) :
    State.EachUnit (KeepsHeld v) s (planWriteMsr i idx x priv s).state := by
  have hicr64 : ∀ u, s.units[i]? = some u → State.EachUnit (KeepsHeld v) s (writeIcr64 s i u x priv).state := by
    intro u hu
    rw [writeIcr64, sendFromIcr_state]
    exact setUnit_keepsHeld v hu rfl
  refine .planOnUnit (KeepsHeld.refl v) fun u hu => ?_
  split
  · exact units_eq_keepsHeld v rfl
  · split
    · exact units_eq_keepsHeld v rfl
    · split
      · exact units_eq_keepsHeld v rfl
      · split_ifs
        · exact units_eq_keepsHeld v rfl
        · exact units_eq_keepsHeld v rfl
        · exact units_eq_keepsHeld v rfl
        · exact units_eq_keepsHeld v rfl
        · exact hicr64 u hu
        · exact writeEffect_keepsHeld v _ _ priv hu

theorem planLocalInterrupt_keepsHeld (i : Nat) (pin : Pin) (level priv : Bool) :
    State.EachUnit (KeepsHeld v) s (planLocalInterrupt i pin level priv s).state := by
  have hfixed : ∀ u, (localFixed s i u pin priv).state = s := by
    intro u
    simp only [localFixed]
    split
    · rfl
    · exact sendPlan_state ..
  refine .planOnUnit (KeepsHeld.refl v) fun u hu => ?_
  simp only []
  split
  · exact units_eq_keepsHeld v rfl
  · split
    · exact units_eq_keepsHeld v rfl
    · split
      · exact setUnit_keepsHeld v hu rfl
      all_goals
        split
        · exact units_eq_keepsHeld v (by simp [hfixed, Plan.done])
        · exact units_eq_keepsHeld v rfl

end

/-- The first atomic step of a command of several steps loses no vector. -/
theorem planOf_keepsHeld {c : Instr} {s : State} {p : Plan} (h : planOf c s = some p) (v : Vec) :
    State.EachUnit (KeepsHeld v) s p.state := by
  cases c with
  | writeReg i off x priv => cases h; exact planWriteReg_keepsHeld v s i off x priv
  | writeMsr i idx x priv => cases h; exact planWriteMsr_keepsHeld v s i idx x priv
  | post t w trig tag => cases h; exact .planOnUnit (KeepsHeld.refl v) fun _ _ => units_eq_keepsHeld v rfl
  | fold i => cases h; exact .planOnUnit (KeepsHeld.refl v) fun _ _ => units_eq_keepsHeld v rfl
  | timerExpire i =>
    cases h
    refine .planOnUnit (KeepsHeld.refl v) fun u hu => ?_
    split
    · exact setUnit_keepsHeld v hu (expire_holds u s.vt v)
    · exact units_eq_keepsHeld v rfl
  | sendIpiFromIcr i priv =>
    cases h
    exact .planOnUnit (KeepsHeld.refl v) fun u _ => units_eq_keepsHeld v (by rw [sendFromIcr_state])
  | busDeliver w dm d trig pol g m priv =>
    cases h
    unfold planBusDeliver
    split
    · exact units_eq_keepsHeld v rfl
    · exact units_eq_keepsHeld v (by rw [sendPlan_state])
  | localInterrupt i pin level priv => cases h; exact planLocalInterrupt_keepsHeld v s i pin level priv
  | _ => cases h

/-! ## The commands and the inputs -/

theorem KeepsStaged.refl (v : Vec) (c : Instr) (i : Nat) (u : ApicUnit) : KeepsStaged v c i u u := .of_staged rfl

/-- What a whole command does to a staged vector (R151): of the commands of one atomic step, those that may reset the unit
are set apart, and the others leave the bitmaps alone. -/
theorem exec_keepsStaged {c : Instr} {s t : State} (h : exec c s = .next t) (v : Vec) :
    State.EachUnit (KeepsStaged v c) s t := by
  have hsame : ∀ {r : State}, r.units = s.units → State.EachUnit (KeepsStaged v c) s r :=
    .of_units_eq (KeepsStaged.refl v c)
  have hset : ∀ {i : Nat} {u u' : ApicUnit}, s.units[i]? = some u → KeepsStaged v c i u u' →
      State.EachUnit (KeepsStaged v c) s (s.setUnit i u') :=
    .setUnit (KeepsStaged.refl v c)
  cases hp : planOf c s with
  | some p =>
    rw [exec_of_planOf hp] at h
    cases h
    exact eachUnit_keepsStaged (complete_eachUnit (KeepsHeld.refl v) KeepsHeld.trans (planOf_keepsHeld hp v)
      fun _ _ _ _ _ hdoes => hdoes.keepsHeld v) c
  | none =>
    cases c with
    | reset i => cases h; exact .onUnit (KeepsStaged.refl v _) fun u hu => hset hu fun _ => .inr (.inl rfl)
    | init i => cases h; exact .onUnit (KeepsStaged.refl v _) fun u hu => hset hu fun _ => .inr (.inr (.inl rfl))
    | setBase i x =>
      cases h
      refine .onUnit (KeepsStaged.refl v _) fun u hu => ?_
      split
      · exact hsame rfl
      · exact hset hu fun _ => .inr (.inr (.inr ⟨x, rfl⟩))
    | readReg i off =>
      cases h
      refine .onUnit (KeepsStaged.refl v _) fun u hu => ?_
      split
      · exact hsame rfl
      · split
        · exact hsame rfl
        · split
          · exact hset hu (.of_staged rfl)
          · exact hsame rfl
    | readMsr i idx =>
      cases h
      refine .onUnit (KeepsStaged.refl v _) fun u hu => ?_
      split
      · exact hsame rfl
      · split
        · exact hsame rfl
        · split
          · exact hsame rfl
          · split_ifs <;> exact hsame rfl
    | getBase i => cases h; exact .onUnit (KeepsStaged.refl v _) fun _ _ => hsame rfl
    | updatePpr i => cases h; exact .onUnit (KeepsStaged.refl v _) fun u hu => hset hu (.of_staged rfl)
    | signalIfPending i => cases h; exact .onUnit (KeepsStaged.refl v _) fun u hu => hset hu (.of_staged rfl)
    | getNext i =>
      cases h
      refine .onUnit (KeepsStaged.refl v _) fun u hu => ?_
      split
      · exact hsame rfl
      · split
        · exact hsame rfl
        · split
          · exact hsame rfl
          · split
            · exact hsame rfl
            · exact hset hu (.of_staged rfl)
    | eoi i x =>
      cases h
      exact .onUnit (KeepsStaged.refl v _) fun u hu => eachUnit_keepsStaged (endOfInterrupt_keepsHeld v hu) _
    | queueToService i w => cases h; exact .onUnit (KeepsStaged.refl v _) fun u hu => hset hu (.of_staged rfl)
    | dequeueFromService i w => cases h; exact .onUnit (KeepsStaged.refl v _) fun u hu => hset hu (.of_staged rfl)
    | setInitialCount i n =>
      cases h
      exact .onUnit (KeepsStaged.refl v _) fun u hu =>
        eachUnit_keepsStaged (setUnit_keepsHeld v hu (setInitialCount_holds u s.vt n v)) _
    | getCurrentCount i => cases h; exact .onUnit (KeepsStaged.refl v _) fun _ _ => hsame rfl
    | stopTimer i => cases h; exact .onUnit (KeepsStaged.refl v _) fun u hu => hset hu (.of_staged rfl)
    | _ => cases hp

theorem answerOutcome_keepsStaged {a : Agent} {c : Instr} {s t : State} (h : answerOutcome a (exec c s) = .next t)
    (v : Vec) : State.EachUnit (KeepsStaged v c) s t := by
  obtain ⟨r, hx, rfl⟩ := answerOutcome_next h
  exact exec_keepsStaged hx v

theorem begin_units (a : Agent) (p : Plan) :
    (State.begin a p).units = p.state.units := by
  unfold State.begin
  split
  · rename_i h
    rw [State.answerTo, Plan.complete, h]
    rfl
  · rfl

theorem startCommand_keepsStaged {a : Agent} {c : Instr} {s t : State} (h : startCommand a s c = .next t) (v : Vec) :
    State.EachUnit (KeepsStaged v c) s t := by
  unfold startCommand at h
  split at h
  · rename_i p hp
    cases h
    exact eachUnit_keepsStaged
      ((planOf_keepsHeld hp v).trans KeepsHeld.trans (units_eq_keepsHeld v (begin_units a p))) c
  · exact answerOutcome_keepsStaged h v

theorem advanceCommand_keepsHeld (c : InFlight) (s : State) (v : Vec) :
    State.EachUnit (KeepsHeld v) s (advanceCommand c s) := by
  unfold advanceCommand
  split
  · exact units_eq_keepsHeld v rfl
  · rename_i x rest _
    have hstep := (atomicStep_does x s c.progress).mono fun _ _ _ hdoes => hdoes.keepsHeld v
    simp only []
    split <;> exact hstep

/-- What an input does to a staged vector. -/
theorem runInput_keepsStaged {inp : Input} {s t : State} (h : runInput inp s = .next t) (v : Vec) :
    State.EachUnit (KeepsHeld v) s t ∨ ∃ c, inp.command = some c ∧ State.EachUnit (KeepsStaged v c) s t := by
  cases inp with
  | issue a w =>
    obtain ⟨-, ⟨_, -, rfl⟩ | ⟨c, hc, -, hr⟩⟩ := takeWord_next h
    · exact .inl (units_eq_keepsHeld v rfl)
    · exact .inr ⟨c, congrArg Except.toOption hc, answerOutcome_keepsStaged hr v⟩
  | start a w =>
    obtain ⟨-, ⟨_, -, rfl⟩ | ⟨c, hc, -, hr⟩⟩ := takeWord_next h
    · exact .inl (units_eq_keepsHeld v rfl)
    · exact .inr ⟨c, congrArg Except.toOption hc, startCommand_keepsStaged hr v⟩
  | advance a =>
    simp only [runInput] at h
    split at h
    · cases h
    · cases h
      exact .inl (advanceCommand_keepsHeld _ s v)
  | time vt =>
    simp only [runInput] at h
    split at h
    · cases h
      exact .inl (units_eq_keepsHeld v rfl)
    · cases h
  | takeNmi i => cases h; exact .inl (.mapUnit (KeepsHeld.refl v) i fun _ => id)
  | takeSmi i => cases h; exact .inl (.mapUnit (KeepsHeld.refl v) i fun _ => id)

/-- Settles O56: a step keeps what is held, or is the taking of a command, which keeps what is staged unless it may reset
the unit. -/
theorem noStagedVectorLost : Obligations.NoStagedVectorLost := by
  intro s s' i u u' v h hu hu' hstaged
  have hsplit : u'.holds v = true → u'.staged v = true ∨ hasVec u'.irr v = true := Bool.or_eq_true_iff.mp
  unfold step at h
  split at h
  · cases h
    obtain rfl := Option.some.inj (hu.symm.trans hu')
    exact .inl hstaged
  · rename_i inp rest hinputs
    obtain hheld | ⟨c, hc, hkeeps⟩ := runInput_keepsStaged h v
    · exact (hsplit (hheld.get hu hu' (Bool.or_eq_true_iff.mpr (.inl hstaged)))).imp_right .inl
    · obtain hholds | hreset := hkeeps.get hu hu' hstaged
      · exact (hsplit hholds).imp_right .inl
      · exact .inr (.inr ⟨c, by rwa [hinputs], hreset⟩)

end Sys2Proof.Machine
end

section
/-! What the commands that any agent may issue leave alone (O58): `POST`, `TIMER_EXPIRE`, `BUS_DELIVER` and
`LOCAL_INTERRUPT` (R305) are posts and sends, the LINT0 latch and the expiry of a timer. -/

namespace Sys2Proof.Machine

/-! ## The frame -/

/-- A unit with everything blanked that a command of any agent may change (R151, R155, R305). -/
def ApicUnit.ownPart (u : ApicUnit) : ApicUnit :=
  { u with
    esr := 0, lvtLint0 := 0, pibE := ⟨0, false⟩, pibL := ⟨0, false⟩, tag := [], timArmed := false, timArmAt := 0
    timDeadline := 0, timShift := 0, nmi := false, smi := false, extint := false }

/-- Units with the same part of their own differ at most in the fields it blanks. -/
theorem eq_of_ownPart_eq {u u' : ApicUnit} (h : u'.ownPart = u.ownPart) :
    u' = { u with
      esr := u'.esr, lvtLint0 := u'.lvtLint0, pibE := u'.pibE, pibL := u'.pibL, tag := u'.tag, timArmed := u'.timArmed
      timArmAt := u'.timArmAt, timDeadline := u'.timDeadline, timShift := u'.timShift, nmi := u'.nmi, smi := u'.smi
      extint := u'.extint } := by
  cases u
  cases u'
  simp only [ApicUnit.ownPart, ApicUnit.mk.injEq] at h ⊢
  tauto

/-- The units agree on the hidden timer state (R34). -/
def ApicUnit.SameTimer (u u' : ApicUnit) : Prop :=
  u'.timArmed = u.timArmed ∧ u'.timArmAt = u.timArmAt ∧ u'.timDeadline = u.timDeadline ∧ u'.timShift = u.timShift

/-- What a command `c` of any agent may do to unit j: ESR gains flags, `LOCAL_INTERRUPT` of the unit may latch LINT0 and
`TIMER_EXPIRE` of the unit may set the hidden timer state; the unit's own part stays. -/
structure AnyAgentMove (c : Instr) (j : Nat) (u u' : ApicUnit) : Prop where
  ownPart : u'.ownPart = u.ownPart
  esr : u.esr &&& ~~~u'.esr = 0
  latch : u'.lvtLint0 = u.lvtLint0 ∨
    (u'.lvtLint0 = u.lvtLint0 ||| 0x4000#32 ∧ ∃ p, c = .localInterrupt j .lint0 true p)
  timer : c ≠ .timerExpire j → u.SameTimer u'

theorem and_not_self_or (x m : Word32) : x &&& ~~~(x ||| m) = 0 := by
  rw [BitVec.not_or, ← BitVec.and_assoc, BitVec.and_not_self]
  exact BitVec.zero_and

namespace AnyAgentMove

variable {c : Instr} {j : Nat} {u u' u'' : ApicUnit}

theorem refl (c : Instr) (j : Nat) (u : ApicUnit) : AnyAgentMove c j u u where
  ownPart := rfl
  esr := BitVec.and_not_self _
  latch := .inl rfl
  timer := fun _ => ⟨rfl, rfl, rfl, rfl⟩

theorem trans (j : Nat) (u u' u'' : ApicUnit) (h : AnyAgentMove c j u u') (h' : AnyAgentMove c j u' u'') :
    AnyAgentMove c j u u'' where
  ownPart := h'.ownPart.trans h.ownPart
  esr := outside_trans h.esr h'.esr
  latch := by
    obtain hl' | ⟨hl', hc⟩ := h'.latch
    · rw [hl']
      exact h.latch
    · refine .inr ⟨?_, hc⟩
      obtain hl | ⟨hl, -⟩ := h.latch
      · rw [hl', hl]
      · rw [hl', hl, BitVec.or_assoc, BitVec.or_self]
  timer := by
    intro hc
    obtain ⟨harmed, harmAt, hdeadline, hshift⟩ := h.timer hc
    obtain ⟨harmed', harmAt', hdeadline', hshift'⟩ := h'.timer hc
    exact ⟨harmed'.trans harmed, harmAt'.trans harmAt, hdeadline'.trans hdeadline, hshift'.trans hshift⟩

theorem orEsr (c : Instr) (j : Nat) (u : ApicUnit) (m : Word32) : AnyAgentMove c j u (u.orEsr m) :=
  { refl c j u with esr := and_not_self_or _ _ }

theorem setPib (c : Instr) (j : Nat) (u : ApicUnit) (trig : Trigger) (p : Pib) :
    AnyAgentMove c j u (u.setPib trig p) := by
  cases trig <;> exact { refl c j u with }

theorem setTag (c : Instr) (j : Nat) (u : ApicUnit) (g : TagStore) : AnyAgentMove c j u { u with tag := g } :=
  { refl c j u with }

theorem raiseSignal (c : Instr) (j : Nat) (u : ApicUnit) (sig : Signal) : AnyAgentMove c j u (u.raiseSignal sig) := by
  cases sig <;> exact { refl c j u with }

theorem setExtint (c : Instr) (j : Nat) (u : ApicUnit) (b : Bool) : AnyAgentMove c j u { u with extint := b } :=
  { refl c j u with }

theorem latchLint0 (i : Nat) (priv : Bool) (u : ApicUnit) :
    AnyAgentMove (.localInterrupt i .lint0 true priv) i u { u with lvtLint0 := u.lvtLint0 ||| 1#32 <<< 14 } :=
  { refl _ i u with latch := .inr ⟨rfl, priv, rfl⟩ }

theorem expire (i : Nat) (u : ApicUnit) (now : Word64) : AnyAgentMove (.timerExpire i) i u (u.expire now) := by
  unfold ApicUnit.expire
  split <;> exact { refl _ i u with timer := fun h => absurd rfl h }

end AnyAgentMove

/-! ## The steps of a send -/

/-- The steps of posts and sends: all but those of a fold and the latch of LINT0 (R70). -/
def AtomicStep.isSend : AtomicStep → Bool
  | .foldNotify _ _ => false
  | .foldWord _ _ _ => false
  | .latchLint0 _ => false
  | _ => true

theorem AtomicStep.Does.anyAgentMove {a : AtomicStep} {j : Nat} {u u' : ApicUnit} (h : a.Does j u u')
    (ha : a.isSend = true) (c : Instr) : AnyAgentMove c j u u' := by
  cases h with
  | nothing => exact .refl c j u
  | receiveError => exact .orEsr c j u _
  | sendError => exact .orEsr c j u _
  | stagePost _ v trig tag => exact (AnyAgentMove.setPib c j u trig _).trans j u _ _ (.setTag c j _ _)
  | setNotify _ trig => exact .setPib c j u trig _
  | raiseSignal _ sig => exact .raiseSignal c j u sig
  | _ => cases ha

theorem postSteps_isSend (t : Nat) (v : Vec) (trig : Trigger) (tag : Word32) :
    ∀ a ∈ postSteps t v trig tag, a.isSend = true := by
  simp [postSteps, AtomicStep.isSend]

theorem targetSteps_isSend (v : Vec) (trig : Trigger) (dm : DeliveryMode) (tag : Word32) (seen : Nat → Option Bool)
    (t : Nat) : ∀ a ∈ targetSteps v trig dm tag seen t, a.isSend = true := by
  cases dm <;> simp [targetSteps, postSteps, AtomicStep.isSend]

/-- A send makes the steps of a send, and then those it was given (R200, R202, R211). -/
theorem sendPlan_todo {s : State} {sender : Option Nat} {v : Vec} {trig : Trigger} {dm : DeliveryMode}
    {targets : List Nat} {tag : Word32} {priv : Bool} {read : List Nat} {after : List AtomicStep} {finish : Finish}
    {a : AtomicStep} (h : a ∈ (sendPlan s sender v trig dm targets tag priv read after finish).todo) :
    a.isSend = true ∨ a ∈ after := by
  unfold sendPlan at h
  split at h
  · cases h
  · obtain hsend | hafter := List.mem_append.mp h
    · refine .inl ?_
      obtain htarget | herror := List.mem_append.mp hsend
      · obtain ⟨t, -, ht⟩ := List.mem_flatMap.mp htarget
        exact targetSteps_isSend v trig dm tag _ t a ht
      · split at herror
        · obtain ⟨t, -, rfl⟩ := List.mem_map.mp herror
          rfl
        · cases herror
    · exact .inr hafter

/-! ## The four commands -/

/-- A plan that a command of any agent may have: its first step and each step that is left makes an allowed move. -/
structure AnyAgentPlan (c : Instr) (s : State) (p : Plan) : Prop where
  state : State.EachUnit (AnyAgentMove c) s p.state
  todo : ∀ a ∈ p.todo, ∀ j u u', a.Does j u u' → AnyAgentMove c j u u'

namespace AnyAgentPlan

variable {c : Instr} {s : State}

theorem done (c : Instr) (s : State) (st : Status) : AnyAgentPlan c s (Plan.done s st) where
  state := .of_units_eq (.refl c) rfl
  todo := nofun

theorem setUnit_done {i : Nat} {u u' : ApicUnit} (h : s.units[i]? = some u) (hm : AnyAgentMove c i u u') (st : Status) :
    AnyAgentPlan c s (Plan.done (s.setUnit i u') st) where
  state := .setUnit (.refl c) h hm
  todo := nofun

theorem planOnUnit {i : Nat} {k : ApicUnit → Plan} (h : ∀ u, s.units[i]? = some u → AnyAgentPlan c s (k u)) :
    AnyAgentPlan c s (planOnUnit s i k) := by
  unfold Machine.planOnUnit
  split
  · exact done c s _
  · rename_i u hu
    exact h u hu

theorem post (t : Nat) (v : Vec) (trig : Trigger) (tag : Word32) (s : State) :
    AnyAgentPlan c s (planPost t v trig tag s) :=
  planOnUnit fun _ _ =>
    { state := .of_units_eq (.refl c) rfl
      todo := fun a ha _ _ _ h => h.anyAgentMove (postSteps_isSend t v trig tag a ha) c }

/-- A send, with the steps after it that the command allows. -/
theorem send {sender : Option Nat} {v : Vec} {trig : Trigger} {dm : DeliveryMode} {targets : List Nat} {tag : Word32}
    {priv : Bool} {read : List Nat} {after : List AtomicStep} {finish : Finish}
    (h : ∀ a ∈ after, ∀ j u u', a.Does j u u' → AnyAgentMove c j u u') :
    AnyAgentPlan c s (sendPlan s sender v trig dm targets tag priv read after finish) where
  state := .of_units_eq (.refl c) (by rw [sendPlan_state])
  todo := by
    intro a ha j u u' hdoes
    obtain hsend | hafter := sendPlan_todo ha
    · exact hdoes.anyAgentMove hsend c
    · exact h a hafter j u u' hdoes

theorem timerExpire (i : Nat) (s : State) : AnyAgentPlan (.timerExpire i) s (planTimerExpire i s) := by
  refine planOnUnit fun u hu => ?_
  split
  · refine ⟨.setUnit (.refl _) hu (.expire i u s.vt), fun a ha j w w' hdoes => ?_⟩
    dsimp only at ha
    split at ha
    · cases ha
    · exact hdoes.anyAgentMove (postSteps_isSend _ _ _ _ a ha) _
  · exact done _ s _

theorem busDeliver (v : Vec) (dm : DeliveryMode) (d : DestMode) (trig : Trigger) (pol : Bool) (tag mask : Word32)
    (priv : Bool) (s : State) : AnyAgentPlan c s (planBusDeliver v dm d trig pol tag mask priv s) := by
  unfold planBusDeliver
  split
  · exact done c s _
  · exact send nofun

/-- A Fixed local interrupt latches LINT0 after its send, at the pin LINT0 alone (R211, R212). -/
theorem localFixed (s : State) (i : Nat) (u : ApicUnit) (pin : Pin) (priv : Bool) :
    AnyAgentPlan (.localInterrupt i pin true priv) s (localFixed s i u pin priv) := by
  simp only [Machine.localFixed]
  split
  · exact done _ s _
  · refine send fun a ha j w w' hdoes => ?_
    split at ha
    · rename_i hlatching
      obtain ⟨hpin, -⟩ : pin = .lint0 ∧ _ := by simpa using hlatching
      subst hpin
      obtain rfl := List.mem_singleton.mp ha
      cases hdoes with
      | nothing => exact .refl _ j w
      | latch => exact .latchLint0 i priv w
    · cases ha

theorem localInterrupt (i : Nat) (pin : Pin) (level priv : Bool) (s : State) :
    AnyAgentPlan (.localInterrupt i pin level priv) s (planLocalInterrupt i pin level priv s) := by
  refine planOnUnit fun u hu => ?_
  simp only []
  split
  · exact done _ s _
  · split
    · exact done _ s _
    · cases deliveryModeField (u.lvt (pinLvt pin))
      case extInt => exact setUnit_done hu (.setExtint _ i u level) _
      all_goals cases level
      case fixed.true => exact localFixed s i u pin priv
      case smi.true | nmi.true | init.true =>
        simp only [if_true]
        exact send nofun
      all_goals exact done _ s _

end AnyAgentPlan

/-- Of the commands, four may be issued by an agent that is no owner and not the Environment (R305). -/
theorem anyAgentPlan_of_mayIssue {c : Instr} {a : Agent} (hmay : mayIssue a c = true)
    (ha : ∀ k, a ≠ .owner k ∧ a ≠ .environment) (s : State) : ∃ p, planOf c s = some p ∧ AnyAgentPlan c s p := by
  cases c with
  | post t v trig tag => exact ⟨_, rfl, .post t v trig tag s⟩
  | timerExpire i => exact ⟨_, rfl, .timerExpire i s⟩
  | busDeliver v dm d trig pol tag mask priv => exact ⟨_, rfl, .busDeliver v dm d trig pol tag mask priv s⟩
  | localInterrupt i pin level priv => exact ⟨_, rfl, .localInterrupt i pin level priv s⟩
  | reset i => exact absurd (of_decide_eq_true hmay) (ha 0).2
  | init i =>
    obtain ⟨howner, henv⟩ := ha i
    simp [mayIssue, howner, henv] at hmay
  | _ => exact absurd (of_decide_eq_true hmay) (ha _).1

/-- Settles O58: the command is one of the four, each of whose steps makes a move that `AnyAgentMove` allows. -/
theorem anyAgentCommandsFrame : Obligations.AnyAgentCommandsFrame := by
  rintro c s t ⟨a, hmay, ha⟩ h j u u' hu hu'
  obtain ⟨p, hp, hplan⟩ := anyAgentPlan_of_mayIssue hmay ha s
  rw [exec_of_planOf hp] at h
  cases h
  have hmove : AnyAgentMove c j u u' :=
    (complete_eachUnit (.refl c) .trans hplan.state hplan.todo).get hu hu'
  exact ⟨eq_of_ownPart_eq hmove.ownPart, hmove.esr, hmove.latch, hmove.timer⟩

end Sys2Proof.Machine
end

section
/-! The local timer: `SET_INITIAL_COUNT` (O39), `GET_CURRENT_COUNT` (O40), the one after the other (O41), `TIMER_EXPIRE` (O42)
and `STOP_TIMER` (O43). -/

namespace Sys2Proof.Machine

/-! ## What the timer's operations do to a unit -/

/-- The span of a count is the count times the divider (R171, R172). -/
theorem count_shiftLeft (n : Word32) (k : Nat) : n.setWidth 64 <<< k = BitVec.ofNat 64 (n.toNat * 2 ^ k) := by
  have hn : n.toNat < 2 ^ 64 := n.isLt.trans (by decide)
  refine BitVec.eq_of_toNat_eq ?_
  rw [BitVec.toNat_shiftLeft, BitVec.toNat_setWidth, Nat.mod_eq_of_lt hn, Nat.shiftLeft_eq, BitVec.toNat_ofNat]

section
variable {u : ApicUnit} {now : Word64}

theorem ApicUnit.setInitialCount_zero : u.setInitialCount now 0 = { u with timerIcr := 0, timArmed := false } :=
  if_pos rfl

theorem ApicUnit.setInitialCount_of_ne {n : Word32} (hn : n ≠ 0) :
    u.setInitialCount now n = { u with timerIcr := n }.arm now n :=
  if_neg hn

theorem ApicUnit.arm_timerMode {n : Word32} :
    ({ u with timerIcr := n }.arm now n).timerMode = u.lvtTimer.extractLsb' 17 2 := rfl

/-- The deadline of an arming, in the unit's own terms; inside the premise of R170 it does not wrap (R172). -/
theorem ApicUnit.arm_deadline (hnow : now.toNat ≤ vtBound) {n : Word32} (hn : n ≠ 0) :
    ({ u with timerIcr := n }.arm now n).timDeadline.toNat = now.toNat + n.toNat * 2 ^ (divShift u.timerDcr).toNat :=
  (ApicUnit.arm_timerOk (u := { u with timerIcr := n }) hnow hn rfl).2.2

theorem ApicUnit.timerDue_iff : u.timerDue now = true ↔ u.timArmed = true ∧ u.timDeadline.toNat ≤ now.toNat := by
  rw [ApicUnit.timerDue, Bool.and_eq_true, decide_eq_true_eq]

theorem ApicUnit.currentCount_stopped (h : u.timArmed = false) : u.currentCount now = 0 := by
  rw [ApicUnit.currentCount, if_pos h, ite_self]

theorem ApicUnit.currentCount_from_deadline (h : u.timDeadline.toNat ≤ now.toNat) : u.currentCount now = 0 := by
  rw [ApicUnit.currentCount, if_pos h, ite_self, ite_self]

/-- The count of a running timer (R174). The elapsed ticks over the divider stay below the initial count, as the deadline is
not reached, so that neither narrowing them to 32 bits nor the subtraction wraps. -/
theorem ApicUnit.currentCount_running (hmode : u.timerMode ≠ 2#2) (harmed : u.timArmed = true) (hok : u.TimerOk now)
    (hbefore : now.toNat < u.timDeadline.toNat) :
    (now.toNat - u.timArmAt.toNat) / 2 ^ u.timShift.toNat < u.timerIcr.toNat ∧
      (u.currentCount now).toNat =
        u.timerIcr.toNat - (now.toNat - u.timArmAt.toNat) / 2 ^ u.timShift.toNat := by
  obtain ⟨-, hpast, hdeadline⟩ := hok harmed
  have hspent : (now.toNat - u.timArmAt.toNat) / 2 ^ u.timShift.toNat < u.timerIcr.toNat :=
    (Nat.div_lt_iff_lt_mul (Nat.two_pow_pos _)).mpr (by omega)
  have hticks : (((now - u.timArmAt) >>> u.timShift.toNat).setWidth 32).toNat =
      (now.toNat - u.timArmAt.toNat) / 2 ^ u.timShift.toNat := by
    rw [BitVec.toNat_setWidth, BitVec.toNat_ushiftRight, BitVec.toNat_sub_of_le (BitVec.le_def.mpr hpast),
      Nat.shiftRight_eq_div_pow, Nat.mod_eq_of_lt (hspent.trans u.timerIcr.isLt)]
  refine ⟨hspent, ?_⟩
  rw [ApicUnit.currentCount, if_neg hmode, if_neg (by simp [harmed]), if_neg (Nat.not_le.mpr hbefore),
    BitVec.toNat_sub_of_le (BitVec.le_def.mpr (hticks.trans_le hspent.le)), hticks]

/-- An expiry touches the timer alone, so a post after it wakes as one before it would (R154, R176). -/
theorem ApicUnit.expire_postWakes (u : ApicUnit) (now : Word64) (v : Vec) (trig : Trigger) :
    (u.expire now).postWakes v trig = u.postWakes v trig := by
  unfold ApicUnit.expire
  split <;> rfl

end

/-! ## The commands on a unit that exists -/

section
variable {s : State} {i : Nat} {u : ApicUnit}

theorem exec_setInitialCount (h : s.units[i]? = some u) (n : Word32) :
    exec (.setInitialCount i n) s = .next ((s.setUnit i (u.setInitialCount s.vt n)).respond .ok) :=
  congrArg Host.Outcome.next (onUnit_some h _)

theorem exec_getCurrentCount (h : s.units[i]? = some u) :
    exec (.getCurrentCount i) s = .next (s.respondData ((u.currentCount s.vt).setWidth 64)) :=
  congrArg Host.Outcome.next (onUnit_some h _)

theorem exec_stopTimer (h : s.units[i]? = some u) :
    exec (.stopTimer i) s = .next ((s.setUnit i u.stopTimer).respond .ok) :=
  congrArg Host.Outcome.next (onUnit_some h _)

theorem exec_timerExpire_not_due (h : s.units[i]? = some u)
    (hdue : u.timArmed = false ∨ s.vt.toNat < u.timDeadline.toNat) :
    exec (.timerExpire i) s = .next (s.respond .ok) := by
  have hnot : ¬ u.timerDue s.vt = true := by
    rw [ApicUnit.timerDue_iff]
    rintro ⟨harmed, hle⟩
    exact hdue.elim (by simp [harmed]) hle.not_gt
  refine congrArg Host.Outcome.next ?_
  rw [planTimerExpire, planOnUnit_some h, if_neg hnot]
  rfl

/-- An expiry whose timer is due: the critical section, then the post unless the entry is masked (R176). -/
theorem exec_timerExpire_due (h : s.units[i]? = some u) (hdue : u.timerDue s.vt = true) :
    exec (.timerExpire i) s = .next ((if lvtIsMasked u.lvtTimer then s.setUnit i (u.expire s.vt) else
      { s with
        units := s.units.set i ((u.expire s.vt).posted (vectorField u.lvtTimer) .edge s.cfg.tagTimer)
        out := s.out ++ (if u.postWakes (vectorField u.lvtTimer) .edge = true then [.wake i] else []) }).respond .ok) := by
  refine congrArg Host.Outcome.next ?_
  rw [planTimerExpire, planOnUnit_some h, if_pos hdue, Plan.complete]
  cases lvtIsMasked u.lvtTimer with
  | true => rfl
  | false =>
    have hpost := (runSteps_post (vectorField u.lvtTimer) .edge s.cfg.tagTimer false
      (setUnit_getElem? h (u.expire s.vt))).1
    rw [State.setUnit_units, List.set_set, ApicUnit.expire_postWakes] at hpost
    exact congrArg (State.respond · .ok) hpost

end

/-! ## The statements -/

/-- Settles O41: the unit left by the arming satisfies `TimerOk`, so `currentCount_running` gives the count before its
deadline. -/
theorem countRoundTrip : Obligations.CountRoundTrip := by
  intro s t i u n later hu hmode hn hvt hlater hset
  rw [exec_setInitialCount hu, ApicUnit.setInitialCount_of_ne hn] at hset
  cases hset
  have hdeadline := ApicUnit.arm_deadline (u := u) hvt hn
  refine ⟨_, exec_getCurrentCount (setUnit_getElem? hu _), fun hbefore => ?_, fun hfrom => ?_⟩
  · obtain ⟨hspent, hcount⟩ := ApicUnit.currentCount_running (now := later) (ApicUnit.arm_timerMode.trans_ne hmode) rfl
      (fun _ => ⟨hn, hlater, hdeadline⟩) (hbefore.trans_eq hdeadline.symm)
    exact ⟨(Nat.sub_pos_of_lt hspent).trans_eq hcount.symm, hcount.trans_le (Nat.sub_le _ _), hcount⟩
  · exact ApicUnit.currentCount_from_deadline (hdeadline.trans_le hfrom)

/-- Settles O42: not due, due and masked, due and posted. -/
theorem timerExpireResult : Obligations.TimerExpireResult := by
  intro s i u h
  have hdue := fun harmed hle => exec_timerExpire_due h (ApicUnit.timerDue_iff.mpr ⟨harmed, hle⟩)
  refine ⟨exec_timerExpire_not_due h, fun harmed hle hmasked => ?_, fun harmed hle hunmasked => ?_⟩
  · rw [hdue harmed hle, lvtIsMasked, hmasked]
    rfl
  · rw [hdue harmed hle, lvtIsMasked, hunmasked]
    rfl

/-- Settles O39, by the two cases of the count. -/
theorem setInitialCountResult : Obligations.SetInitialCountResult := by
  intro s i u n h shift
  rw [exec_setInitialCount h]
  by_cases hn : n = 0
  · rw [if_pos hn, hn, ApicUnit.setInitialCount_zero]
    rfl
  · rw [if_neg hn, ApicUnit.setInitialCount_of_ne hn, ← count_shiftLeft]
    rfl

/-- Settles O40: the cases of the answer are those of `currentCount`. -/
theorem currentCountResult : Obligations.CurrentCountResult := by
  intro s i u h
  rw [exec_getCurrentCount h]
  simp only [ApicUnit.currentCount, apply_ite (BitVec.setWidth 64)]
  rfl

/-- Settles O43: the stored unit is not armed, whatever the time. -/
theorem stopTimerResult : Obligations.StopTimerResult := by
  intro s i u later h t
  have hu : ({ t with vt := later } : State).units[i]? = some { u with timArmed := false } := setUnit_getElem? h _
  refine ⟨exec_stopTimer h, ?_, exec_timerExpire_not_due hu (.inl rfl)⟩
  rw [exec_getCurrentCount hu, ApicUnit.currentCount_stopped rfl]
  rfl

end Sys2Proof.Machine
end

section
/-! The destination decode: the members of a target set (O44) and the winner of an arbitration (O45). Every target set lists
units that exist, in ascending order, which is what a send needs of it. -/

namespace Sys2Proof.Machine

/-! ## The decode by destination mode -/

/-- The destination of a decode: all 32 bits in the wide form, else the low byte (R191). -/
def destValue (mask : Word32) (wide : Bool) : Word32 := if wide then mask else (mask.extractLsb' 0 8).setWidth 32

theorem destValue_eq (mask : Word32) (wide : Bool) :
    destValue mask wide = if wide = true then mask else mask &&& 0xFF#32 := by
  have hbyte : (mask.extractLsb' 0 8).setWidth 32 = mask &&& 0xFF#32 := by
    have hlow : mask.toNat &&& 255 = mask.toNat % 256 := Nat.and_two_pow_sub_one_eq_mod mask.toNat 8
    refine BitVec.eq_of_toNat_eq ?_
    rw [BitVec.toNat_and, BitVec.toNat_setWidth, BitVec.extractLsb'_toNat, BitVec.toNat_ofNat]
    exact (Nat.mod_eq_of_lt (by omega)).trans hlow.symm
  rw [destValue, hbyte]

section
variable (s : State) (mask : Word32) (wide : Bool) {dm : DeliveryMode}

theorem computeDest_physical_lowest : s.computeDest mask .physical .lowestPriority wide = none := rfl

theorem computeDest_logical_lowest : s.computeDest mask .logical .lowestPriority wide =
    some (s.arbitrate (s.logSet (destValue mask wide) (broadcastMask wide))) := rfl

theorem computeDest_physical (hdm : dm ≠ .lowestPriority) :
    s.computeDest mask .physical dm wide = some (s.physSet (destValue mask wide) (broadcastMask wide)) := by
  simp [State.computeDest, hdm, destValue]

theorem computeDest_logical (hdm : dm ≠ .lowestPriority) :
    s.computeDest mask .logical dm wide = some (s.logSet (destValue mask wide) (broadcastMask wide)) := by
  simp [State.computeDest, hdm, destValue]

/-- LowestPriority with a physical destination is the only combination with no target set (R196). -/
theorem computeDest_eq_some (d : DestMode) (h : dm ≠ .lowestPriority ∨ d = .logical) :
    ∃ targets, s.computeDest mask d dm wide = some targets := by
  refine ⟨_, if_neg ?_⟩
  rintro ⟨hdm, hd⟩
  subst hd
  exact h.elim (· hdm) nofun

end

/-! ## The members of a set -/

section
variable {s : State} {m bcast : Word32} {t : Nat}

theorem mem_physSet : t ∈ s.physSet m bcast ↔ t < s.units.length ∧ (m = bcast ∨ m.toNat = t) := by
  unfold State.physSet
  split
  · rename_i hall
    simp [State.allUnits, State.ncpu, hall]
  · rename_i hone
    split
    · rename_i hlt
      simp only [List.mem_singleton, hone, false_or]
      exact ⟨fun ht => ⟨ht ▸ hlt, ht.symm⟩, fun ht => ht.2.symm⟩
    · rename_i hge
      simp only [List.not_mem_nil, hone, false_or, false_iff]
      rintro ⟨hlt, rfl⟩
      exact hge hlt

/-- The logical match of one unit, by its mode and its destination format (R194); a format other than flat and cluster
matches nothing (log 14). -/
theorem ApicUnit.logicalMatch_iff {u : ApicUnit} : u.logicalMatch m = true ↔
    (u.mode = .x2apic ∧ m.extractLsb' 16 16 = u.ldr.extractLsb' 16 16 ∧
      m.extractLsb' 0 16 &&& u.ldr.extractLsb' 0 16 ≠ 0) ∨
    (u.mode ≠ .x2apic ∧ u.dfr.extractLsb' 28 4 = 0xF#4 ∧ m.extractLsb' 0 8 &&& u.ldr.extractLsb' 24 8 ≠ 0) ∨
    (u.mode ≠ .x2apic ∧ u.dfr.extractLsb' 28 4 = 0x0#4 ∧ m.extractLsb' 4 4 = u.ldr.extractLsb' 28 4 ∧
      m.extractLsb' 0 4 &&& u.ldr.extractLsb' 24 4 ≠ 0) := by
  unfold ApicUnit.logicalMatch
  by_cases hx : u.mode = .x2apic
  · simp [hx]
  · by_cases hflat : u.dfr.extractLsb' 28 4 = 0xF#4
    · simp [hx, hflat]
    · by_cases hcluster : u.dfr.extractLsb' 28 4 = 0x0#4 <;> simp [hx, hflat, hcluster]

theorem unitMatches_iff : s.unitMatches m t = true ↔ ∃ u, s.units[t]? = some u ∧ u.logicalMatch m = true := by
  unfold State.unitMatches
  split
  · rename_i hnone
    simp [hnone]
  · rename_i u hu
    simp [hu]

theorem mem_logSet : t ∈ s.logSet m bcast ↔
    ∃ u, s.units[t]? = some u ∧ m ≠ 0 ∧ (m = bcast ∨ u.logicalMatch m = true) := by
  have hexists : t < s.units.length ↔ ∃ u, s.units[t]? = some u :=
    ⟨fun ht => ⟨_, List.getElem?_eq_getElem ht⟩, fun ⟨_, hu⟩ => (List.getElem?_eq_some_iff.mp hu).1⟩
  unfold State.logSet
  split
  · rename_i hzero
    simp [hzero]
  · rename_i hne
    split
    · rename_i hall
      rw [State.allUnits, State.ncpu, List.mem_range, hexists]
      exact exists_congr fun u => (and_iff_left ⟨hne, .inl hall⟩).symm
    · rename_i hsome
      simp only [State.allUnits, State.ncpu, List.mem_filter, List.mem_range, unitMatches_iff, hne, hsome, false_or,
        ne_eq, not_false_eq_true, true_and, and_iff_right_iff_imp]
      rintro ⟨u, hu, -⟩
      exact hexists.mpr ⟨u, hu⟩

end

/-! ## Target sets -/

/-- What the decode gives a send: units that exist, in ascending order (R191, R201). -/
structure State.TargetList (s : State) (targets : List Nat) : Prop where
  ascending : targets.Pairwise (· < ·)
  exist : ∀ t ∈ targets, t < s.units.length

section
variable {s : State}

theorem State.TargetList.nodup {targets : List Nat} (h : s.TargetList targets) : targets.Nodup :=
  h.ascending.imp Nat.ne_of_lt

theorem State.TargetList.filter {targets : List Nat} (h : s.TargetList targets) (p : Nat → Bool) :
    s.TargetList (targets.filter p) where
  ascending := h.ascending.filter p
  exist t ht := h.exist t (List.mem_of_mem_filter ht)

theorem targetList_nil : s.TargetList [] := ⟨.nil, nofun⟩

theorem targetList_singleton {t : Nat} (h : t < s.units.length) : s.TargetList [t] :=
  ⟨List.pairwise_singleton _ t, by simpa using h⟩

theorem targetList_allUnits : s.TargetList s.allUnits :=
  ⟨List.pairwise_lt_range, fun _ ht => List.mem_range.mp ht⟩

theorem targetList_physSet (m bcast : Word32) : s.TargetList (s.physSet m bcast) := by
  unfold State.physSet
  split
  · exact targetList_allUnits
  · split
    · rename_i hlt
      exact targetList_singleton hlt
    · exact targetList_nil

theorem targetList_logSet (m bcast : Word32) : s.TargetList (s.logSet m bcast) := by
  unfold State.logSet
  split
  · exact targetList_nil
  · split
    · exact targetList_allUnits
    · exact targetList_allUnits.filter _

end

/-! ## Arbitration -/

section
variable {s : State} {targets : List Nat}

theorem arbitrate_nil : s.arbitrate [] = [] := rfl

/-- An arbitration has one winner: no TPR byte of the set is below its own, and no unit with the same byte has a higher index
(R195). -/
theorem arbitrate_winner (h : targets ≠ []) : ∃ w ∈ targets, s.arbitrate targets = [w] ∧
    ∀ t ∈ targets, s.tprOf w ≤ s.tprOf t ∧ (s.tprOf t = s.tprOf w → t ≤ w) := by
  obtain ⟨p, hp⟩ := Option.isSome_iff_exists.mp
    (List.isSome_min?_iff.mpr (mt List.map_eq_nil_iff.mp h : targets.map s.tprOf ≠ []))
  obtain ⟨hmem, hlowest⟩ := List.min?_eq_some_iff.mp hp
  obtain ⟨t₀, ht₀, hp₀⟩ := List.mem_map.mp hmem
  obtain ⟨w, hw⟩ := Option.isSome_iff_exists.mp
    (List.isSome_max?_iff.mpr
      (List.ne_nil_of_mem (List.mem_filter.mpr ⟨ht₀, beq_iff_eq.mpr hp₀⟩ : t₀ ∈ targets.filter (s.tprOf · == p))))
  obtain ⟨hwin, hhighest⟩ := List.max?_eq_some_iff.mp hw
  obtain ⟨hwt, hwp⟩ := List.mem_filter.mp hwin
  have hwp : s.tprOf w = p := beq_iff_eq.mp hwp
  refine ⟨w, hwt, ?_, fun t ht => ⟨?_, fun htie => ?_⟩⟩
  · simp only [State.arbitrate, hp, hw, Option.toList_some]
  · exact hwp.trans_le (hlowest _ (List.mem_map_of_mem ht))
  · exact hhighest t (List.mem_filter.mpr ⟨ht, beq_iff_eq.mpr (htie.trans hwp)⟩)

theorem targetList_arbitrate (h : s.TargetList targets) : s.TargetList (s.arbitrate targets) := by
  by_cases hnil : targets = []
  · rw [hnil]
    exact targetList_nil
  · obtain ⟨w, hw, harb, -⟩ := arbitrate_winner (s := s) hnil
    rw [harb]
    exact targetList_singleton (h.exist w hw)

/-- Whatever the decode answers is a target set (R191). -/
theorem targetList_computeDest {mask : Word32} {d : DestMode} {dm : DeliveryMode} {wide : Bool}
    (h : s.computeDest mask d dm wide = some targets) : s.TargetList targets := by
  by_cases hdm : dm = .lowestPriority
  · subst hdm
    cases d with
    | physical => cases h
    | logical =>
      cases h
      exact targetList_arbitrate (targetList_logSet _ _)
  · cases d with
    | physical =>
      obtain rfl := Option.some.inj ((computeDest_physical s mask wide hdm).symm.trans h)
      exact targetList_physSet _ _
    | logical =>
      obtain rfl := Option.some.inj ((computeDest_logical s mask wide hdm).symm.trans h)
      exact targetList_logSet _ _

theorem tprOf_some {t : Nat} {u : ApicUnit} (h : s.units[t]? = some u) : s.tprOf t = (u.tpr.extractLsb' 0 8).toNat := by
  simp only [State.tprOf, h]

end

/-! ## The statements -/

/-- Settles O44: the sets of `computeDest_physical` and `computeDest_logical`, their members by `mem_physSet` and
`mem_logSet`. -/
theorem destinationMembers : Obligations.DestinationMembers := by
  intro s mask dm wide m bcast
  have hm : destValue mask wide = m := destValue_eq mask wide
  have hphys := fun hdm => hm ▸ computeDest_physical s mask wide (dm := dm) hdm
  have hlog := fun hdm => hm ▸ computeDest_logical s mask wide (dm := dm) hdm
  refine ⟨computeDest_physical_lowest s mask wide, fun hdm => ?_, fun hdm => ?_⟩
  · exact ⟨_, hphys hdm, (targetList_physSet m bcast).ascending, fun t => mem_physSet⟩
  · refine ⟨_, hlog hdm, (targetList_logSet m bcast).ascending, fun t => ?_⟩
    simp only [← ApicUnit.logicalMatch_iff]
    exact mem_logSet

/-- Settles O45, by the winner of the arbitration among the logical set. -/
theorem arbitrationWinner : Obligations.ArbitrationWinner := by
  intro s mask wide all hall
  have hlowest := computeDest_logical_lowest s mask wide
  rw [← Option.some.inj ((computeDest_logical s mask wide (by decide)).symm.trans hall).symm] at hlowest
  refine ⟨fun hnil => by rw [hlowest, hnil, arbitrate_nil], fun hne => ?_⟩
  obtain ⟨w, hw, harb, hbest⟩ := arbitrate_winner (s := s) hne
  have hexists : s.units[w]? = some _ := List.getElem?_eq_getElem ((targetList_computeDest hall).exist w hw)
  refine ⟨w, hw, hlowest.trans (congrArg some harb), _, hexists, fun t ht ut hut => ?_⟩
  obtain ⟨hle, htie⟩ := hbest t ht
  rw [tprOf_some hexists, tprOf_some hut] at hle htie
  exact ⟨hle, fun heq => htie (congrArg BitVec.toNat heq)⟩

end Sys2Proof.Machine
end

section
/-! What `SEND_INTERRUPT` does, said once for every delivery mode (R200 to R204), and the two commands that send to a target
set: `SEND_IPI_FROM_ICR` (O46, O47) and `BUS_DELIVER` (O48). -/

namespace Sys2Proof.Machine

/-! ## A whole send -/

/-- The units after a send, the sender's error flag left out (R200). -/
def sentUnits (us : List ApicUnit) (targets : List Nat) (v : Vec) (trig : Trigger) (dm : DeliveryMode) (tag : Word32) :
    List ApicUnit :=
  match dm with
  | .fixed => postedUnits us targets v trig tag
  | .lowestPriority => postedUnits us targets v trig tag
  | .smi => signalledUnits us targets .smi
  | .nmi => signalledUnits us targets .nmi
  | .extInt => signalledUnits us targets .extint
  | .init => us
  | .sipi => us
  | .reserved3 => us

/-- The events of a send (R200). -/
def sentEvents (us : List ApicUnit) (targets : List Nat) (v : Vec) (trig : Trigger) (dm : DeliveryMode) : List Event :=
  match dm with
  | .fixed => postedWakes us targets v trig
  | .lowestPriority => postedWakes us targets v trig
  | .init => targets.map .cpuInit
  | .sipi => targets.map fun t => .cpuSipi t v
  | .smi => []
  | .nmi => []
  | .extInt => []
  | .reserved3 => []

/-- Whether a send is accepted: some target was posted to with success or signalled (R204). -/
def sentAccepted (us : List ApicUnit) (targets : List Nat) (v : Vec) (dm : DeliveryMode) : Bool :=
  match dm with
  | .fixed => decide (15 < v.toNat) && targets.any fun t => us[t]?.any ApicUnit.isEnabled
  | .lowestPriority => decide (15 < v.toNat) && targets.any fun t => us[t]?.any ApicUnit.isEnabled
  | .reserved3 => false
  | .smi => !targets.isEmpty
  | .nmi => !targets.isEmpty
  | .extInt => !targets.isEmpty
  | .init => !targets.isEmpty
  | .sipi => !targets.isEmpty

/-- A Fixed send of an illegal vector is recorded in the sender's ESR[5], if there is a sender (R202). -/
def recordSendErrors (sender : Option Nat) (v : Vec) (dm : DeliveryMode) (us : List ApicUnit) : List ApicUnit :=
  match sender with
  | none => us
  | some i => us.modify i fun w => if dm = .fixed ∧ v.toNat ≤ 15 then { w with esr := w.esr ||| 0x20#32 } else w

/-- The state a send leaves (R200 to R202). -/
def State.sent (s : State) (sender : Option Nat) (v : Vec) (trig : Trigger) (dm : DeliveryMode) (targets : List Nat)
    (tag : Word32) : State :=
  { s with
    units := recordSendErrors sender v dm (sentUnits s.units targets v trig dm tag)
    out := s.out ++ sentEvents s.units targets v trig dm }

/-- Only a Fixed send records an error, and only of an illegal vector (R202). -/
theorem recordSendErrors_of_not {v : Vec} {dm : DeliveryMode} (h : ¬ (dm = .fixed ∧ v.toNat ≤ 15)) (sender : Option Nat)
    (us : List ApicUnit) : recordSendErrors sender v dm us = us := by
  cases sender with
  | none => rfl
  | some i =>
    simp only [recordSendErrors, h, if_false]
    exact List.modify_id i us

theorem mapUnit_eq_modify (s : State) (i : Nat) (f : ApicUnit → ApicUnit) :
    s.mapUnit i f = { s with units := s.units.modify i f } := by
  unfold State.mapUnit
  split
  · rename_i hnone
    rw [List.modify_eq_self (List.getElem?_eq_none_iff.mp hnone)]
  · rename_i u hu
    rw [List.modify_eq_set_getElem?, hu]
    rfl

section
variable {s : State} {targets : List Nat} (v : Vec) (trig : Trigger) (dm : DeliveryMode) (tag : Word32)

/-- The steps of a send for its targets (R200, R201). -/
theorem runSteps_targets (ht : s.TargetList targets) (read : List Nat) :
    let r := runSteps (targets.flatMap (targetSteps v trig dm tag (s.enableSeen read))) s ⟨true, false⟩
    r.1 = { s with
      units := sentUnits s.units targets v trig dm tag
      out := s.out ++ sentEvents s.units targets v trig dm } ∧
    r.2.acc = sentAccepted s.units targets v dm := by
  have hpost := runSteps_fixedTargets v trig tag (s.enableSeen read) targets s ⟨true, false⟩ ht.nodup ht.exist
    fun _ _ _ => enableSeen_eq
  have hsignal : ∀ sig,
      let r := runSteps (targets.flatMap fun t => [.raiseSignal t sig]) s ⟨true, false⟩
      r.1 = { s with units := signalledUnits s.units targets sig, out := s.out ++ [] } ∧
        r.2.acc = !targets.isEmpty := fun sig => by
    rw [List.append_nil]
    exact runSteps_signal sig targets s ⟨true, false⟩ ht.nodup
  have hevents := fun f => runSteps_events f targets s ⟨true, false⟩
  cases dm with
  | fixed => exact hpost
  | lowestPriority => exact hpost
  | smi => exact hsignal .smi
  | nmi => exact hsignal .nmi
  | extInt => exact hsignal .extint
  | init => exact hevents _
  | sipi => exact hevents _
  | reserved3 =>
    have hnone : targets.flatMap (targetSteps v trig .reserved3 tag (s.enableSeen read)) = [] :=
      List.flatMap_eq_nil_iff.mpr fun _ _ => rfl
    simp [hnone, runSteps, sentUnits, sentEvents, sentAccepted]

/-- The last step of a send, the sender's error flag (R202). -/
theorem runSteps_sendError (sender : Option Nat) (s : State) (p : Progress) :
    runSteps (if dm = .fixed ∧ illegalVector v then sender.toList.map .recordSendError else []) s p =
      ({ s with units := recordSendErrors sender v dm s.units }, p) := by
  by_cases hrecord : dm = .fixed ∧ v.toNat ≤ 15
  · cases sender with
    | none => simp [runSteps, recordSendErrors]
    | some i =>
      simp [runSteps, recordSendErrors, atomicStep, mapUnit_eq_modify, illegalVector, hrecord, ApicUnit.orEsr,
        esrSendIllegal]
  · simp [illegalVector, hrecord, runSteps, recordSendErrors_of_not hrecord]

/-- The steps of a whole send (R200 to R202). -/
theorem runSteps_sendSteps (ht : s.TargetList targets) (sender : Option Nat) (read : List Nat) :
    let r := runSteps (sendSteps sender v trig dm targets tag (s.enableSeen read)) s ⟨true, false⟩
    r.1 = s.sent sender v trig dm targets tag ∧ r.2.acc = sentAccepted s.units targets v dm := by
  obtain ⟨hstate, hacc⟩ := runSteps_targets v trig dm tag ht read
  simp only [sendSteps, runSteps_append, runSteps_sendError, hstate]
  exact ⟨rfl, hacc⟩

variable {v trig dm tag} {p : Bool}

/-- A send that may be made, run whole: what it leaves and how it answers (R200 to R204). -/
theorem sendPlan_complete (ht : s.TargetList targets) (hpriv : dm = .init ∨ dm = .sipi → p = true)
    (sender : Option Nat) (read : List Nat) (finish : Finish) :
    (sendPlan s sender v trig dm targets tag p read [] finish).complete =
      (s.sent sender v trig dm targets tag).respond (finish.status ⟨true, sentAccepted s.units targets v dm⟩) := by
  have hmay : ¬ ((dm = .init ∨ dm = .sipi) ∧ p = false) := fun ⟨hdm, hp⟩ => by simp [hpriv hdm] at hp
  obtain ⟨hstate, hacc⟩ := runSteps_sendSteps v trig dm tag ht sender read
  rw [sendPlan, if_neg hmay, Plan.complete, List.append_nil, hstate]
  cases finish with
  | always => rfl
  | accepted => simp only [Finish.status, hacc]

/-- INIT and SIPI without a privileged context (R203). -/
theorem sendPlan_retry (hdm : dm = .init ∨ dm = .sipi) (sender : Option Nat) (read : List Nat) (after : List AtomicStep)
    (finish : Finish) :
    (sendPlan s sender v trig dm targets tag false read after finish).complete = s.respond .retryPrivileged := by
  rw [sendPlan, if_pos ⟨hdm, rfl⟩, Plan.done_complete]

end

/-! ## The fields of a send -/

/-- The delivery mode field holds a mode's number (R92, R93, R95). -/
theorem deliveryModeField_iff {x : Word32} {dm : DeliveryMode} :
    deliveryModeField x = dm ↔ x.extractLsb' 8 3 = dm.toBits := by
  have hbits : ∀ b : BitVec 3, (DeliveryMode.ofBits b).toBits = b := by decide
  refine ⟨fun h => ?_, fun h => ?_⟩
  · rw [← h, deliveryModeField, hbits]
  · rw [deliveryModeField, h, DeliveryMode.ofBits_toBits]

theorem triggerField_eq (x : Word32) : triggerField x = if x.getLsbD 15 = true then .level else .edge := by
  rw [triggerField]
  cases x.getLsbD 15 <;> rfl

theorem triggerField_level_iff {x : Word32} : triggerField x = .level ↔ x.getLsbD 15 = true := by
  rw [triggerField]
  cases x.getLsbD 15 <;> simp [Trigger.ofBool]

/-- INIT level de-assert, by the bits of the ICR (R207). -/
theorem initDeassert_iff {lo : Word32} : initDeassert lo = true ↔
    lo.extractLsb' 8 3 = 5#3 ∧ lo.getLsbD 14 = false ∧ lo.getLsbD 15 = true := by
  have hmode : deliveryModeField lo = .init ↔ lo.extractLsb' 8 3 = 5#3 := deliveryModeField_iff
  simp [initDeassert, hmode, triggerField_level_iff, and_assoc]

/-! ## A send from the ICR -/

section
variable {s : State} {i : Nat} {u : ApicUnit} {targets : List Nat}

/-- With no shorthand the destination decides (R205). -/
theorem icrTargets_no_shorthand (hsh : u.icrLo.extractLsb' 18 2 = 0#2) : s.icrTargets i u =
    s.computeDest u.icrDest (destModeField u.icrLo) (deliveryModeField u.icrLo) (decide (u.mode = .x2apic)) := by
  simp [State.icrTargets, State.shorthandSet, shorthandField, hsh]

theorem icrTargets_of_sendsTo (h : IcrSendsTo s i u targets) : s.icrTargets i u = some targets := by
  rcases h with ⟨hsh, rfl⟩ | ⟨hsh, rfl⟩ | ⟨hsh, rfl⟩ | ⟨hsh, hmode, hdest⟩ | ⟨hsh, hmode, hdest⟩
  · simp [State.icrTargets, State.shorthandSet, shorthandField, hsh]
  · simp [State.icrTargets, State.shorthandSet, shorthandField, hsh, State.allUnits, State.ncpu]
  · simp [State.icrTargets, State.shorthandSet, shorthandField, hsh, State.allUnits, State.ncpu]
  · rw [icrTargets_no_shorthand hsh, ApicUnit.icrDest, if_pos hmode, decide_eq_true hmode]
    exact hdest
  · rw [icrTargets_no_shorthand hsh, ApicUnit.icrDest, if_neg hmode, decide_eq_false hmode]
    exact hdest

theorem targetList_icrTargets (hi : i < s.units.length) (h : s.icrTargets i u = some targets) : s.TargetList targets := by
  unfold State.icrTargets at h
  split at h
  · rename_i hsh
    cases h
    unfold State.shorthandSet at hsh
    split_ifs at hsh <;> cases hsh
    · exact targetList_singleton hi
    · exact targetList_allUnits
    · exact targetList_allUnits.filter _
  · exact targetList_computeDest h

/-- Every delivery mode but LowestPriority has a target set, whatever the destination (R196, R205). -/
theorem icrTargets_eq_some (hdm : deliveryModeField u.icrLo ≠ .lowestPriority) : ∃ ts, s.icrTargets i u = some ts := by
  unfold State.icrTargets
  split
  · exact ⟨_, rfl⟩
  · exact computeDest_eq_some s _ _ _ (.inl hdm)

theorem icrTargets_eq_none (hdm : deliveryModeField u.icrLo = .lowestPriority) (hsh : u.icrLo.extractLsb' 18 2 = 0#2)
    (hdest : u.icrLo.getLsbD 11 = false) : s.icrTargets i u = none := by
  rw [icrTargets_no_shorthand hsh, hdm, destModeField, hdest]
  exact computeDest_physical_lowest s _ _

theorem exec_sendIpi_deassert (h : s.units[i]? = some u) (p : Bool) (hde : initDeassert u.icrLo = true) :
    exec (.sendIpiFromIcr i p) s = .next (s.respond .ok) := by
  refine congrArg Host.Outcome.next ?_
  rw [planSendIpiFromIcr, planOnUnit_some h, sendFromIcr, if_pos hde, Plan.done_complete]

theorem exec_sendIpi_illegal (h : s.units[i]? = some u) (p : Bool) (hde : ¬ initDeassert u.icrLo = true)
    (hts : s.icrTargets i u = none) : exec (.sendIpiFromIcr i p) s = .next (s.respond .illegalCombination) := by
  refine congrArg Host.Outcome.next ?_
  rw [planSendIpiFromIcr, planOnUnit_some h, sendFromIcr, if_neg hde, hts, Plan.done_complete]

/-- A send from the ICR that has a target set is the send of R200 (R205). -/
theorem exec_sendIpi_targets (h : s.units[i]? = some u) (p : Bool) (hde : ¬ initDeassert u.icrLo = true)
    (hts : s.icrTargets i u = some targets) :
    exec (.sendIpiFromIcr i p) s =
      .next (sendPlan s (some i) (vectorField u.icrLo) (triggerField u.icrLo) (deliveryModeField u.icrLo) targets
        s.cfg.tagIpi p (s.icrReads i u) [] (.always .ok)).complete := by
  refine congrArg Host.Outcome.next ?_
  rw [planSendIpiFromIcr, planOnUnit_some h, sendFromIcr, if_neg hde, hts]

theorem exec_sendIpi_retry (h : s.units[i]? = some u) (hde : ¬ initDeassert u.icrLo = true)
    (hdm : deliveryModeField u.icrLo = .init ∨ deliveryModeField u.icrLo = .sipi) :
    exec (.sendIpiFromIcr i false) s = .next (s.respond .retryPrivileged) := by
  have hne : deliveryModeField u.icrLo ≠ .lowestPriority := by
    rcases hdm with hdm | hdm <;> simp [hdm]
  obtain ⟨targets, hts⟩ := icrTargets_eq_some (s := s) (i := i) hne
  rw [exec_sendIpi_targets h false hde hts, sendPlan_retry hdm]

/-- A send from the ICR that is made: what it leaves, by the ICR's delivery mode (R200 to R205). -/
theorem exec_sendIpi_sent {dm : DeliveryMode} {p : Bool} (h : s.units[i]? = some u) (hdm : deliveryModeField u.icrLo = dm)
    (hde : ¬ initDeassert u.icrLo = true) (hpriv : dm = .init ∨ dm = .sipi → p = true)
    (hsends : IcrSendsTo s i u targets) :
    exec (.sendIpiFromIcr i p) s =
      .next ((s.sent (some i) (vectorField u.icrLo) (triggerField u.icrLo) dm targets s.cfg.tagIpi).respond .ok) := by
  have hts := icrTargets_of_sendsTo hsends
  have hlist := targetList_icrTargets (List.getElem?_eq_some_iff.mp h).1 hts
  rw [exec_sendIpi_targets h p hde hts, hdm, sendPlan_complete hlist hpriv]
  rfl

end

/-! ## The bus -/

section
variable {s : State} {v : Vec} {dm : DeliveryMode} {d : DestMode} {trig : Trigger} {g mask : Word32} {p : Bool}
  {targets : List Nat} (pol : Bool)

theorem exec_busDeliver_illegal (h : s.computeDest mask d dm s.cfg.busWide = none) :
    exec (.busDeliver v dm d trig pol g mask p) s = .next (s.respond .illegalCombination) := by
  refine congrArg Host.Outcome.next ?_
  rw [planBusDeliver, h, Plan.done_complete]

theorem exec_busDeliver_retry (h : s.computeDest mask d dm s.cfg.busWide = some targets)
    (hdm : dm = .init ∨ dm = .sipi) :
    exec (.busDeliver v dm d trig pol g mask false) s = .next (s.respond .retryPrivileged) := by
  refine congrArg Host.Outcome.next ?_
  rw [planBusDeliver, h]
  exact sendPlan_retry hdm _ _ _ _

/-- A bus delivery that is made (R204, R209). -/
theorem exec_busDeliver_sent (h : s.computeDest mask d dm s.cfg.busWide = some targets)
    (hpriv : dm = .init ∨ dm = .sipi → p = true) :
    exec (.busDeliver v dm d trig pol g mask p) s = .next ((s.sent none v trig dm targets g).respond
      (if sentAccepted s.units targets v dm then .ok else .notAccepted)) := by
  refine congrArg Host.Outcome.next ?_
  rw [planBusDeliver, h]
  exact sendPlan_complete (targetList_computeDest h) hpriv _ _ _

end

/-! ## The statements -/

/-- Settles O46: `exec_sendIpi_sent`, where the delivery mode is one of the two that post. -/
theorem ipiPosts : Obligations.IpiPosts := by
  intro s i u p targets h hsends hdm v trig
  have htrig : triggerField u.icrLo = trig := triggerField_eq u.icrLo
  have hfixed : deliveryModeField u.icrLo = .fixed ↔ u.icrLo.extractLsb' 8 3 = 0#3 := deliveryModeField_iff
  have hposts : deliveryModeField u.icrLo = .fixed ∨ deliveryModeField u.icrLo = .lowestPriority :=
    hdm.imp (deliveryModeField_iff (dm := .fixed)).mpr (deliveryModeField_iff (dm := .lowestPriority)).mpr
  have hpriv : deliveryModeField u.icrLo = .init ∨ deliveryModeField u.icrLo = .sipi → p = true := by
    rcases hposts with hm | hm <;> simp [hm]
  have hde : ¬ initDeassert u.icrLo = true := by
    rcases hposts with hm | hm <;> simp [initDeassert, hm]
  have hunits : sentUnits s.units targets v trig (deliveryModeField u.icrLo) s.cfg.tagIpi =
      postedUnits s.units targets v trig s.cfg.tagIpi := by
    rcases hposts with hm | hm <;> rw [hm] <;> rfl
  have hwakes : sentEvents s.units targets v trig (deliveryModeField u.icrLo) = postedWakes s.units targets v trig := by
    rcases hposts with hm | hm <;> rw [hm] <;> rfl
  have hsent := exec_sendIpi_sent h rfl hde hpriv hsends
  rw [htrig, State.sent, show vectorField u.icrLo = v from rfl, hunits, hwakes] at hsent
  simp only [recordSendErrors, hfixed] at hsent
  exact hsent

/-- Settles O47: the de-assert, the combination with no set and the retry, then `exec_sendIpi_sent` mode by mode. -/
theorem ipiSignals : Obligations.IpiSignals := by
  intro s i u p h dm deassert sends
  have hde : initDeassert u.icrLo = true ↔ deassert := initDeassert_iff
  have hfield : ∀ {m : DeliveryMode}, dm = m.toBits → deliveryModeField u.icrLo = m := deliveryModeField_iff.mpr
  have hasserted : ∀ {b : BitVec 3}, dm = b → b ≠ 5#3 → ¬ initDeassert u.icrLo = true := fun hb hne hd =>
    hne (hb.symm.trans (hde.mp hd).1)
  refine ⟨fun hd => exec_sendIpi_deassert h p (hde.mpr hd), fun hdm hsh hdest => ?_, fun hdm hd hp => ?_,
    fun targets hsends => ?_⟩
  · exact exec_sendIpi_illegal h p (hasserted hdm (by decide)) (icrTargets_eq_none (hfield hdm) hsh hdest)
  · subst hp
    exact exec_sendIpi_retry h (mt hde.mp hd) (hdm.imp (fun h5 => hfield h5) fun h6 => hfield h6)
  · have hsent : ∀ {m us out}, dm = m.toBits → m ≠ .fixed → ¬ initDeassert u.icrLo = true →
        (m = .init ∨ m = .sipi → p = true) →
        sentUnits s.units targets (vectorField u.icrLo) (triggerField u.icrLo) m s.cfg.tagIpi = us →
        s.out ++ sentEvents s.units targets (vectorField u.icrLo) (triggerField u.icrLo) m = out → sends us out := by
      rintro m _ _ hm hne hd hpriv rfl rfl
      have hexec := exec_sendIpi_sent h (hfield hm) hd hpriv hsends
      rw [State.sent, recordSendErrors_of_not fun hfixed => hne hfixed.1] at hexec
      exact hexec
    have hquiet : s.out ++ [] = s.out := List.append_nil _
    refine ⟨fun hm => ?_, fun hm => ?_, fun hm => ?_, fun hm => ?_, fun hm hd hp => ?_, fun hm hp => ?_⟩
    · exact hsent (m := .smi) hm nofun (hasserted hm (by decide)) (by simp) rfl hquiet
    · exact hsent (m := .reserved3) hm nofun (hasserted hm (by decide)) (by simp) rfl hquiet
    · exact hsent (m := .nmi) hm nofun (hasserted hm (by decide)) (by simp) rfl hquiet
    · exact hsent (m := .extInt) hm nofun (hasserted hm (by decide)) (by simp) rfl hquiet
    · exact hsent (m := .init) hm nofun (mt hde.mp hd) (fun _ => hp) rfl rfl
    · exact hsent (m := .sipi) hm nofun (hasserted hm (by decide)) (fun _ => hp) rfl rfl

/-- Settles O48: no set, no privilege, else `exec_busDeliver_sent` mode by mode. -/
theorem busDelivers : Obligations.BusDelivers := by
  intro s v dm d trig pol g mask p c answers
  refine ⟨exec_busDeliver_illegal pol, fun targets hts => ?_⟩
  have hsent : ∀ {us out st}, (dm = .init ∨ dm = .sipi → p = true) → sentUnits s.units targets v trig dm g = us →
      s.out ++ sentEvents s.units targets v trig dm = out →
      (if sentAccepted s.units targets v dm then Status.ok else .notAccepted) = st → answers us out st := by
    rintro _ _ _ hpriv rfl rfl rfl
    exact exec_busDeliver_sent pol hts hpriv
  have hposted : (if (decide (15 < v.toNat) && targets.any fun t => s.units[t]?.any ApicUnit.isEnabled) = true
      then Status.ok else .notAccepted) =
      if 15 < v.toNat ∧ (targets.any fun t => s.units[t]?.any ApicUnit.isEnabled) = true then .ok else .notAccepted := by
    simp only [Bool.and_eq_true, decide_eq_true_eq]
  have hsignalled : (if (!targets.isEmpty) = true then Status.ok else .notAccepted) =
      if targets = [] then .notAccepted else .ok := by
    cases targets <;> rfl
  have hquiet : s.out ++ [] = s.out := List.append_nil _
  refine ⟨?posts, ?smi, ?nmi, ?extInt, ?reserved, ?retry, ?init, ?sipi⟩
  case posts => rintro (rfl | rfl) <;> exact hsent (by simp) rfl rfl hposted
  case smi | nmi | extInt =>
    rintro rfl
    exact hsent (by simp) rfl hquiet hsignalled
  case reserved =>
    rintro rfl
    exact hsent (by simp) rfl hquiet rfl
  case retry =>
    rintro hdm rfl
    exact exec_busDeliver_retry pol hts hdm
  case init | sipi =>
    rintro rfl hp
    exact hsent (fun _ => hp) rfl rfl hsignalled

end Sys2Proof.Machine
end

section
/-! `LOCAL_INTERRUPT`: a Fixed entry and the LINT0 latch (O49), and every other entry (O50). A local interrupt is a send to the
unit itself, so what it leaves is `runSteps_sendSteps` at one target. -/

namespace Sys2Proof.Machine

/-! ## A send to one unit -/

theorem modify_some {us : List ApicUnit} {i : Nat} {u : ApicUnit} (h : us[i]? = some u) (f : ApicUnit → ApicUnit) :
    us.modify i f = us.set i (f u) := by
  rw [List.modify_eq_set_getElem?, h]
  rfl

theorem mapIdx_singleton (us : List ApicUnit) (i : Nat) (f : ApicUnit → ApicUnit) :
    (us.mapIdx fun t u => if t ∈ [i] then f u else u) = us.modify i f := by
  apply List.ext_getElem?
  intro t
  rw [List.getElem?_mapIdx, List.getElem?_modify]
  cases us[t]? with
  | none => rfl
  | some u => simp [eq_comm]

section
variable {us : List ApicUnit} {i : Nat} {u : ApicUnit} (v : Vec) (trig : Trigger)

theorem postedUnits_singleton (h : us[i]? = some u) (hen : u.isEnabled = true) (tag : Word32) :
    postedUnits us [i] v trig tag = us.set i (u.posted v trig tag) := by
  have hfixed : fixedTarget u v trig tag = u.posted v trig tag := if_pos hen
  rw [← hfixed, ← modify_some h (fixedTarget · v trig tag), ← mapIdx_singleton]
  simp only [postedUnits, fixedTarget, ite_and]

theorem postedWakes_singleton (h : us[i]? = some u) (hen : u.isEnabled = true) :
    postedWakes us [i] v trig = if u.postWakes v trig = true then [.wake i] else [] := by
  simp only [postedWakes, List.filter_cons, List.filter_nil, h, Option.any_some, hen, Bool.true_and]
  split <;> rfl

theorem signalledUnits_singleton (h : us[i]? = some u) (sig : Signal) :
    signalledUnits us [i] sig = us.set i (u.raiseSignal sig) := by
  rw [← modify_some h (·.raiseSignal sig), ← mapIdx_singleton]
  rfl

end

/-- A unit after a Fixed interrupt of its own: posted, and an illegal vector recorded in ESR[5] too (R202, R211). -/
def ApicUnit.postedToSelf (u : ApicUnit) (v : Vec) (trig : Trigger) (tag : Word32) : ApicUnit :=
  if v.toNat ≤ 15 then { u.posted v trig tag with esr := (u.posted v trig tag).esr ||| 0x20#32 } else u.posted v trig tag

section
variable {s : State} {i : Nat} {u : ApicUnit}

/-- A Fixed send of an enabled unit to itself (R200, R202). -/
theorem runSteps_selfFixed (h : s.units[i]? = some u) (hen : u.isEnabled = true) (v : Vec) (trig : Trigger)
    (tag : Word32) :
    let r := runSteps (sendSteps (some i) v trig .fixed [i] tag (s.enableSeen [i])) s ⟨true, false⟩
    r.1 = { s with
      units := s.units.set i (u.postedToSelf v trig tag)
      out := s.out ++ (if u.postWakes v trig = true then [.wake i] else []) } ∧
    r.2.acc = decide (15 < v.toNat) := by
  have hi : i < s.units.length := (List.getElem?_eq_some_iff.mp h).1
  have hposted : (s.units.set i (u.posted v trig tag))[i]? = some (u.posted v trig tag) := setUnit_getElem? h _
  obtain ⟨hstate, hacc⟩ := runSteps_sendSteps v trig .fixed tag (targetList_singleton hi) (some i) [i]
  refine ⟨hstate.trans ?_, hacc.trans ?_⟩
  · simp only [State.sent, recordSendErrors, sentUnits, sentEvents, postedUnits_singleton v trig h hen,
      postedWakes_singleton v trig h hen, modify_some hposted, List.set_set, ApicUnit.postedToSelf, true_and]
  · simp [sentAccepted, h, hen]

/-- The latch after a Fixed send: taken where it is a latching one that was accepted (R211, R212). -/
theorem runSteps_latch (latching : Bool) (h : s.units[i]? = some u) (p : Progress) :
    runSteps (if latching then [.latchLint0 i] else []) s p =
      (if (latching && p.acc) = true then s.setUnit i { u with lvtLint0 := u.lvtLint0 ||| 0x4000#32 } else s, p) := by
  cases latching with
  | false => rfl
  | true =>
    cases hacc : p.acc with
    | false => simp [runSteps, atomicStep, hacc]
    | true =>
      simp only [runSteps, atomicStep, hacc, if_true, mapUnit_some _ h]
      rfl

/-! ## The entry of a pin -/

/-- A disabled unit and a masked entry (R211). -/
theorem planLocalInterrupt_off {pin : Pin} (h : s.units[i]? = some u)
    (hoff : u.isEnabled = false ∨ lvtIsMasked (u.lvt (pinLvt pin)) = true) (level p : Bool) :
    planLocalInterrupt i pin level p s = Plan.done s .notAccepted := by
  rw [planLocalInterrupt, planOnUnit_some h]
  by_cases hen : u.isEnabled = false
  · exact if_pos hen
  · exact (if_neg hen).trans (if_pos (hoff.resolve_left hen))

section
variable {pin : Pin} (h : s.units[i]? = some u) (hen : u.isEnabled = true)
  (hmask : lvtIsMasked (u.lvt (pinLvt pin)) = false)
include h hen hmask

theorem planLocalInterrupt_extInt (hdm : deliveryModeField (u.lvt (pinLvt pin)) = .extInt) (level p : Bool) :
    planLocalInterrupt i pin level p s = Plan.done (s.setUnit i { u with extint := level }) .ok := by
  rw [planLocalInterrupt, planOnUnit_some h]
  simp only [hen, hmask, hdm, Bool.true_eq_false, Bool.false_eq_true, if_false]

theorem planLocalInterrupt_low (hdm : deliveryModeField (u.lvt (pinLvt pin)) ≠ .extInt) (p : Bool) :
    planLocalInterrupt i pin false p s = Plan.done s .ok := by
  rw [planLocalInterrupt, planOnUnit_some h]
  simp only [hen, hmask, Bool.true_eq_false, Bool.false_eq_true, if_false]
  cases hm : deliveryModeField (u.lvt (pinLvt pin)) with
  | extInt => exact absurd hm hdm
  | _ => rfl

theorem planLocalInterrupt_fixed (hdm : deliveryModeField (u.lvt (pinLvt pin)) = .fixed) (p : Bool) :
    planLocalInterrupt i pin true p s = localFixed s i u pin p := by
  rw [planLocalInterrupt, planOnUnit_some h]
  simp only [hen, hmask, hdm, Bool.true_eq_false, Bool.false_eq_true, if_false, if_true]

/-- SMI, NMI and INIT are sent to the unit itself (R211). -/
theorem planLocalInterrupt_sent {dm : DeliveryMode} (hdm : deliveryModeField (u.lvt (pinLvt pin)) = dm)
    (hsent : dm = .smi ∨ dm = .nmi ∨ dm = .init) (p : Bool) :
    planLocalInterrupt i pin true p s =
      sendPlan s (some i) (vectorField (u.lvt (pinLvt pin))) .edge dm [i] s.cfg.tagLint p [i] [] (.always .ok) := by
  rw [planLocalInterrupt, planOnUnit_some h]
  rcases hsent with rfl | rfl | rfl <;>
    simp only [hen, hmask, hdm, Bool.true_eq_false, Bool.false_eq_true, if_false, if_true]

theorem exec_localInterrupt_sent {dm : DeliveryMode} (hdm : deliveryModeField (u.lvt (pinLvt pin)) = dm)
    (hsent : dm = .smi ∨ dm = .nmi ∨ dm = .init) {p : Bool} (hpriv : dm = .init → p = true) :
    exec (.localInterrupt i pin true p) s = .next { s with
      units := sentUnits s.units [i] (vectorField (u.lvt (pinLvt pin))) .edge dm s.cfg.tagLint
      out := s.out ++ sentEvents s.units [i] (vectorField (u.lvt (pinLvt pin))) .edge dm
      rsp := responseWord .ok 0 0 0 } := by
  have hlist : s.TargetList [i] := targetList_singleton (List.getElem?_eq_some_iff.mp h).1
  have ⟨hnotFixed, hnotSipi⟩ : dm ≠ .fixed ∧ dm ≠ .sipi := by rcases hsent with rfl | rfl | rfl <;> decide
  have hmay : dm = .init ∨ dm = .sipi → p = true := fun hor => hpriv (hor.resolve_right hnotSipi)
  refine congrArg Host.Outcome.next ?_
  rw [planLocalInterrupt_sent h hen hmask hdm hsent, sendPlan_complete hlist hmay, State.sent,
    recordSendErrors_of_not fun hfixed => hnotFixed hfixed.1]
  rfl

/-- LowestPriority, SIPI and the reserved mode (R211, log 8). -/
theorem planLocalInterrupt_rejected (p : Bool) (hdm : deliveryModeField (u.lvt (pinLvt pin)) = .lowestPriority ∨
      deliveryModeField (u.lvt (pinLvt pin)) = .sipi ∨ deliveryModeField (u.lvt (pinLvt pin)) = .reserved3) :
    planLocalInterrupt i pin true p s = Plan.done s .notAccepted := by
  rw [planLocalInterrupt, planOnUnit_some h]
  rcases hdm with hdm | hdm | hdm <;>
    simp only [hen, hmask, hdm, Bool.true_eq_false, Bool.false_eq_true, if_false, if_true]

end

/-! ## A Fixed entry -/

/-- A latched LINT0 is not delivered again (R211, R212). -/
theorem localFixed_latched {pin : Pin} (p : Bool) (hpin : pin = .lint0) (htrig : triggerField (u.lvt (pinLvt pin)) = .level)
    (hlatch : u.lvtLint0.getLsbD 14 = true) : (localFixed s i u pin p).complete = s.respond .ok := by
  subst hpin
  simp only [localFixed, htrig, hlatch, decide_true, Bool.and_true, if_true, Plan.done_complete]

/-- A Fixed entry that is delivered: the unit posts to itself, and the latch is taken where the entry is LINT0's,
level-triggered, and the vector is legal (R211, R212). -/
theorem localFixed_delivered {pin : Pin} (h : s.units[i]? = some u) (hen : u.isEnabled = true) (p : Bool) {v : Vec}
    {trig : Trigger} (hv : vectorField (u.lvt (pinLvt pin)) = v) (htrig : triggerField (u.lvt (pinLvt pin)) = trig)
    (hfree : ¬ (pin = .lint0 ∧ trig = .level ∧ u.lvtLint0.getLsbD 14 = true)) :
    (localFixed s i u pin p).complete = { s with
      units := s.units.set i
        (if 15 < v.toNat ∧ pin = .lint0 ∧ trig = .level then
          { u.postedToSelf v trig s.cfg.tagLint with
            lvtLint0 := (u.postedToSelf v trig s.cfg.tagLint).lvtLint0 ||| 0x4000#32 }
        else u.postedToSelf v trig s.cfg.tagLint)
      out := s.out ++ (if u.postWakes v trig = true then [.wake i] else [])
      rsp := responseWord (if v.toNat ≤ 15 then .notAccepted else .ok) 0 0 0 } := by
  obtain ⟨hstate, hacc⟩ := runSteps_selfFixed h hen v trig s.cfg.tagLint
  have hself : (s.units.set i (u.postedToSelf v trig s.cfg.tagLint))[i]? = some (u.postedToSelf v trig s.cfg.tagLint) :=
    setUnit_getElem? h _
  have hopen : ¬ (decide (pin = .lint0) && decide (trig = .level) && u.lvtLint0.getLsbD 14) = true := by
    simpa [and_assoc] using hfree
  have hmay : ¬ ((DeliveryMode.fixed = .init ∨ DeliveryMode.fixed = .sipi) ∧ p = false) := by simp
  simp only [localFixed, hv, htrig]
  rw [if_neg hopen, sendPlan, if_neg hmay]
  simp only [Plan.complete, runSteps_append, hstate]
  rw [runSteps_latch _ hself]
  have hstatus : (if decide (15 < v.toNat) = true then Status.ok else .notAccepted) =
      if v.toNat ≤ 15 then .notAccepted else .ok := by
    by_cases hle : v.toNat ≤ 15
    · simp [hle]
    · simp [hle, Nat.lt_of_not_le hle]
  simp only [Finish.status, hacc, hstatus]
  by_cases hlatch : 15 < v.toNat ∧ pin = .lint0 ∧ trig = .level
  · obtain ⟨hlt, hpin, htr⟩ := hlatch
    simp [hlt, hpin, htr, State.setUnit, State.respond, State.answer]
  · rw [if_neg (by simpa [and_comm, and_assoc] using hlatch), if_neg hlatch]
    rfl

end

/-! ## The statements -/

/-- Settles O49, by `localFixed_latched` and `localFixed_delivered`. -/
theorem localPinFixed : Obligations.LocalPinFixed := by
  intro s i u pin p h hen e v trig hmask hdm
  have he : u.lvt (pinLvt pin) = e := by cases pin <;> rfl
  have htrig : triggerField e = trig := triggerField_eq e
  have hlevel : trig = .level ↔ e.getLsbD 15 = true := htrig ▸ triggerField_level_iff
  have hplan : planLocalInterrupt i pin true p s = localFixed s i u pin p :=
    planLocalInterrupt_fixed h hen (he ▸ hmask) (he ▸ deliveryModeField_iff.mpr hdm) p
  refine ⟨fun ⟨hpin, hb, hlatch⟩ => congrArg Host.Outcome.next ?_, fun hfree => congrArg Host.Outcome.next ?_⟩
  · rw [hplan]
    exact localFixed_latched p hpin (he ▸ htrig.trans (hlevel.mpr hb)) hlatch
  · rw [hplan, localFixed_delivered h hen p (congrArg vectorField he) (he ▸ htrig)
      fun ⟨hpin, hb, hlatch⟩ => hfree ⟨hpin, hlevel.mp hb, hlatch⟩]
    have hunit : (if 15 < v.toNat ∧ pin = .lint0 ∧ trig = .level then
          { u.postedToSelf v trig s.cfg.tagLint with
            lvtLint0 := (u.postedToSelf v trig s.cfg.tagLint).lvtLint0 ||| 0x4000#32 }
        else u.postedToSelf v trig s.cfg.tagLint) =
        if v.toNat ≤ 15 then
          { u.posted v trig s.cfg.tagLint with esr := (u.posted v trig s.cfg.tagLint).esr ||| 0x20#32 }
        else if pin = .lint0 ∧ e.getLsbD 15 = true then
          { u.posted v trig s.cfg.tagLint with lvtLint0 := (u.posted v trig s.cfg.tagLint).lvtLint0 ||| 0x4000#32 }
        else u.posted v trig s.cfg.tagLint := by
      by_cases hv : v.toNat ≤ 15
      · simp [ApicUnit.postedToSelf, hv, Nat.not_lt.mpr hv]
      · simp [ApicUnit.postedToSelf, hv, Nat.lt_of_not_le hv, hlevel]
    rw [← hunit]
    rfl

/-- Settles O50, one kind of entry after another. -/
theorem localPinOther : Obligations.LocalPinOther := by
  intro s i u pin level p h e dm answers
  have he : u.lvt (pinLvt pin) = e := by cases pin <;> rfl
  have hfield : ∀ {m : DeliveryMode}, deliveryModeField (u.lvt (pinLvt pin)) = m ↔ dm = m.toBits :=
    he ▸ deliveryModeField_iff
  have hdone : ∀ {st}, planLocalInterrupt i pin level p s = Plan.done s st → answers u s.out st := fun hplan =>
    congrArg Host.Outcome.next (by rw [hplan, Plan.done_complete, units_set_self h]; rfl)
  refine ⟨fun hoff => hdone (planLocalInterrupt_off h (he ▸ hoff) level p), fun hen hmask => ?_⟩
  rw [← he] at hmask
  refine ⟨fun hm => ?extInt, ?low, ?smi, ?nmi, ?init, ?retry, ?rejected⟩
  case extInt =>
    refine congrArg Host.Outcome.next ?_
    rw [planLocalInterrupt_extInt h hen hmask (hfield.mpr hm)]
    rfl
  case low =>
    rintro hm rfl
    exact hdone (planLocalInterrupt_low h hen hmask (fun hext => hm (hfield.mp hext)) p)
  case smi =>
    rintro hm rfl
    have hsent := exec_localInterrupt_sent h hen hmask (dm := .smi) (hfield.mpr hm) (by simp) (p := p) nofun
    rw [sentUnits, signalledUnits_singleton h, sentEvents, List.append_nil] at hsent
    exact hsent
  case nmi =>
    rintro hm rfl
    have hsent := exec_localInterrupt_sent h hen hmask (dm := .nmi) (hfield.mpr hm) (by simp) (p := p) nofun
    rw [sentUnits, signalledUnits_singleton h, sentEvents, List.append_nil] at hsent
    exact hsent
  case init =>
    rintro hm rfl hp
    have hsent := exec_localInterrupt_sent h hen hmask (dm := .init) (hfield.mpr hm) (by simp) fun _ => hp
    rw [sentUnits, sentEvents, ← units_set_self h] at hsent
    exact hsent
  case retry =>
    rintro hm rfl rfl
    refine congrArg Host.Outcome.next ?_
    rw [planLocalInterrupt_sent h hen hmask (dm := .init) (hfield.mpr hm) (by simp), sendPlan_retry (.inl rfl),
      units_set_self h]
    rfl
  case rejected =>
    rintro hm rfl
    refine hdone (planLocalInterrupt_rejected h hen hmask p ?_)
    obtain hm | hm | hm := hm
    · exact .inl (hfield.mpr hm)
    · exact .inr (.inl (hfield.mpr hm))
    · exact .inr (.inr (hfield.mpr hm))

end Sys2Proof.Machine
end

section
/-! What the register ports read and refuse: the registers behind the page offsets and the MSR indices (O12, O21), the
undefined offsets (O13), and the checks of the MSR port in their order (O22, O23). The facts about the default tables are
decided once, row by row, and every statement goes through them. -/

namespace Sys2Proof.Machine

/-! ## The default tables -/

/-- The default tables on a platform with or without TSC-deadline mode, on which the masks depend (R97, R232). -/
def standardTables (tscDeadline : Bool) : Config := { standardConfig with tscDeadlineAvail := tscDeadline }

section
variable {c : Config} (hs : StandardTables c)
include hs

theorem mmioMask_standard (r : Reg) : c.mmioMask r = (standardTables c.tscDeadlineAvail).mmioMask r := by
  obtain ⟨-, hvalid, -⟩ := hs
  cases c
  subst hvalid
  rfl

theorem msrMask_standard (r : Reg) : c.msrMask r = (standardTables c.tscDeadlineAvail).msrMask r := by
  obtain ⟨-, hvalid, -⟩ := hs
  cases c
  subst hvalid
  rfl

/-- An index out of range, of an undefined offset, or of a register that x2APIC mode does not have (R52, R226). -/
theorem msrReg_unknown {idx : Word32} (h : MsrUnknown idx) : c.msrReg idx = none := by
  have hnone : ∀ off ∈ undefinedOffsets ++ [0x090, 0x0E0, 0x310],
      (standardRegMap.lookup off).all fun r => decide (r.msrAccess = .unavailable) := by decide
  unfold Config.msrReg Config.msrOffset
  by_cases hrange : c.msrBase.toNat ≤ idx.toNat ∧ idx.toNat ≤ c.msrBase.toNat + 0x3F
  · rw [if_pos hrange]
    have ⟨_, _, hbase⟩ := hs
    have hbase : c.msrBase.toNat = 0x800 := by rw [hbase]; rfl
    have hoff : (idx.toNat - 0x800) * 16 ∈ undefinedOffsets ++ [0x090, 0x0E0, 0x310] := by
      obtain ⟨hle, hge⟩ := hrange
      rcases h with hlow | hhigh | hundefined
      · omega
      · omega
      · exact hundefined
    have hall := hnone _ hoff
    simp only [hbase, regAt_standard hs]
    cases hr : standardRegMap.lookup ((idx.toNat - 0x800) * 16) with
    | none => rfl
    | some r =>
      rw [hr] at hall
      exact if_pos (of_decide_eq_true hall)
  · rw [if_neg hrange]

end

/-! ## The readable registers -/

/-- The readable registers with their offsets, in the order of `pageRows` (R53). -/
def readableRows : List (Nat × Reg) :=
  ((pageRows ApicUnit.allocated 0).map Prod.fst).filterMap fun off => (standardRegMap.lookup off).map (off, ·)

/-- `pageRows` lists what each readable register reads as (R54, R55). -/
theorem pageRows_eq_readableRows (u : ApicUnit) (now : Word64) :
    pageRows u (u.currentCount now) = readableRows.map fun row => (row.1, u.readReg now row.2) := rfl

theorem readableRows_mmio : ∀ row ∈ readableRows,
    standardRegMap.lookup row.1 = some row.2 ∧ row.1 % 16 = 0 ∧ row.1 ≤ 0x3F0 := by decide

/-- Without APR, DFR and the two halves of the ICR, the readable registers are those of the MSR port (R53). -/
theorem readableRows_msr : ∀ row ∈ readableRows, row.1 ∉ [0x090, 0x0E0, 0x300, 0x310] →
    (row.2.msrAccess = .rw ∨ row.2.msrAccess = .ro) ∧ row.2 ≠ .icrLo := by decide

/-- The index of the ICR (R52, R53). -/
theorem msrReg_icr {c : Config} (hs : StandardTables c) : c.msrReg 0x830 = some .icrLo :=
  msrReg_standard hs (by decide) (by decide) (by decide) (by decide)

/-- The ICR is read as one 64-bit register (R226). -/
theorem readMsr_icr {s : State} {i : Nat} {u : ApicUnit} {idx : Word32} (h : MsrReaches s i u)
    (hreg : s.cfg.msrReg idx = some .icrLo) :
    exec (.readMsr i idx) s = .next (s.respondData (u.icrHi ++ u.icrLo)) := by
  obtain ⟨hu, hmode, hmax, -⟩ := h
  simp [exec, execReadMsr, onUnit, hu, hmax, hmode, hreg, Reg.msrAccess]

/-- Settles O12: the register of each row by `readableRows_mmio`, its value by `readReg_answer`. -/
theorem readRegAnswers : Obligations.ReadRegAnswers := by
  intro s i u h
  refine ⟨fun row hrow => ?_, readReg_answer (r := .eoi) h (by decide) standardRegMap_eoi⟩
  rw [pageRows_eq_readableRows] at hrow
  obtain ⟨⟨off, r⟩, hread, rfl⟩ := List.mem_map.mp hrow
  obtain ⟨hr, hmod, hle⟩ := readableRows_mmio _ hread
  have hoff : (BitVec.ofNat 32 off).toNat = off := Nat.mod_eq_of_lt (by omega)
  rw [← hoff] at hr hmod hle
  exact readReg_answer h (badOffset_eq_false hmod hle) hr

/-- Settles O21, as O12, at the index of each offset. -/
theorem readMsrAnswers : Obligations.ReadMsrAnswers := by
  intro s i u h
  have ⟨_, _, _, hs⟩ := h
  refine ⟨fun row hrow hne => ?_, readMsr_icr h (msrReg_icr hs)⟩
  rw [pageRows_eq_readableRows] at hrow
  obtain ⟨⟨off, r⟩, hread, rfl⟩ := List.mem_map.mp hrow
  obtain ⟨hr, hmod, hle⟩ := readableRows_mmio _ hread
  obtain ⟨haccess, hicr⟩ := readableRows_msr _ hread hne
  have hidx : (BitVec.ofNat 32 (0x800 + off / 16)).toNat = 0x800 + off / 16 := Nat.mod_eq_of_lt (by omega)
  have hoff : ((BitVec.ofNat 32 (0x800 + off / 16)).toNat - 0x800) * 16 = off := by omega
  dsimp only
  exact readMsr_answer h (by omega) (by omega) (hoff.symm ▸ hr) haccess hicr

/-! ## Undefined offsets -/

section
variable {s : State} {i : Nat} {u : ApicUnit} {off : Word32} (h : MmioReaches s i u) (hoff : off.toNat ∈ undefinedOffsets)

theorem badOffset_undefined (hoff : off.toNat ∈ undefinedOffsets) : badOffset off = false := by
  have hall : ∀ n ∈ undefinedOffsets, n % 16 = 0 ∧ n ≤ 0x3F0 := by decide
  obtain ⟨hmod, hle⟩ := hall _ hoff
  exact badOffset_eq_false hmod hle

include h hoff

theorem readReg_undefined :
    exec (.readReg i off) s = .next ((s.setUnit i (u.orEsr esrIllegalRegister)).respondData 0) := by
  obtain ⟨hu, hmode, hs⟩ := h
  simp [exec, execReadReg, onUnit, hu, hmode, badOffset_undefined hoff, regAt_standard hs,
    standardRegMap_undefined _ hoff]

theorem writeReg_undefined (x : Word32) (p : Bool) : exec (.writeReg i off x p) s = .next (s.respond .ok) := by
  obtain ⟨hu, hmode, hs⟩ := h
  simp [exec, execWriteReg, planWriteReg, planOnUnit, hu, hmode, badOffset_undefined hoff, regAt_standard hs,
    standardRegMap_undefined _ hoff]

end

/-! ## Who sets ESR[7] -/

/-- ESR[7] is set in a unit after only if it was set before. -/
def KeepsEsr7Clear (_ : Nat) (u u' : ApicUnit) : Prop := u'.esr.getLsbD 7 = true → u.esr.getLsbD 7 = true

theorem KeepsEsr7Clear.refl (i : Nat) (u : ApicUnit) : KeepsEsr7Clear i u u := id

theorem KeepsEsr7Clear.of_esr_eq {i : Nat} {u u' : ApicUnit} (h : u'.esr = u.esr) : KeepsEsr7Clear i u u' := by
  rw [KeepsEsr7Clear, h]
  exact id

/-- The two flags of an illegal vector are not ESR[7] (R263). -/
theorem KeepsEsr7Clear.orEsr {m : Word32} (hm : m.getLsbD 7 = false) (i : Nat) (u : ApicUnit) :
    KeepsEsr7Clear i u (u.orEsr m) := by
  intro h
  rwa [ApicUnit.orEsr_esr, BitVec.getLsbD_or, hm, Bool.or_false] at h

/-- No step of a command of several steps sets ESR[7]. -/
theorem AtomicStep.Does.keepsEsr7Clear {a : AtomicStep} {i : Nat} {u u' : ApicUnit} (h : a.Does i u u') :
    KeepsEsr7Clear i u u' := by
  cases h with
  | receiveError => exact .orEsr rfl i u
  | sendError => exact .orEsr rfl i u
  | stagePost _ _ trig _ => cases trig <;> exact .of_esr_eq rfl
  | setNotify _ trig => cases trig <;> exact .of_esr_eq rfl
  | clearNotify _ trig => cases trig <;> exact .of_esr_eq rfl
  | drainWord _ trig _ => cases trig <;> exact .of_esr_eq rfl
  | drainLast _ trig _ => cases trig <;> exact .of_esr_eq rfl
  | raiseSignal _ sig => cases sig <;> exact .of_esr_eq rfl
  | nothing => exact .refl i u
  | latch => exact .of_esr_eq rfl

@[simp] theorem setLvt_esr (u : ApicUnit) (l : Lvt) (x : Word32) : (u.setLvt l x).esr = u.esr := by cases l <;> rfl

theorem setInitialCount_esr (u : ApicUnit) (now : Word64) (n : Word32) : (u.setInitialCount now n).esr = u.esr := by
  unfold ApicUnit.setInitialCount
  split <;> rfl

theorem writeSvr_esr (u : ApicUnit) (x : Word32) : (u.writeSvr x).esr = u.esr := by
  unfold ApicUnit.writeSvr
  split <;> rfl

theorem endInterrupt_esr (u : ApicUnit) (v : Vec) : (u.endInterrupt v).esr = u.esr := by
  unfold ApicUnit.endInterrupt
  cases hasVec u.tmr v <;> rfl

/-- An LVT write sets ESR[5] at most (R243). -/
theorem writeLvt_keepsEsr7Clear (u : ApicUnit) (l : Lvt) (x : Word32) (i : Nat) :
    KeepsEsr7Clear i u (u.writeLvt l x) := by
  have hstored : ∀ y, KeepsEsr7Clear i u (u.setLvt l y) := fun y => .of_esr_eq (setLvt_esr u l y)
  unfold ApicUnit.writeLvt
  split
  · exact hstored _ ∘ KeepsEsr7Clear.orEsr rfl i _
  · exact hstored _

section
variable {s : State} {i : Nat} {u : ApicUnit}

theorem setUnit_keepsEsr7Clear (h : s.units[i]? = some u) {u' : ApicUnit} (hesr : u'.esr = u.esr) :
    State.EachUnit KeepsEsr7Clear s (s.setUnit i u') :=
  .setUnit KeepsEsr7Clear.refl h (.of_esr_eq hesr)

theorem endOfInterrupt_keepsEsr7Clear (h : s.units[i]? = some u) :
    State.EachUnit KeepsEsr7Clear s (s.endOfInterrupt i u) := by
  unfold State.endOfInterrupt
  split
  · exact .of_units_eq KeepsEsr7Clear.refl rfl
  · exact setUnit_keepsEsr7Clear (s := s.emit _) h (endInterrupt_esr u _)

/-- No register write sets ESR[7]: the write of ESR clears it, and the others leave it (R235 to R246). -/
theorem writeEffect_keepsEsr7Clear (r : Reg) (x : Word32) (p : Bool) (h : s.units[i]? = some u) :
    State.EachUnit KeepsEsr7Clear s (writeEffect s i u r x p).state := by
  cases r with
  | eoi => exact endOfInterrupt_keepsEsr7Clear h
  | esr => exact .setUnit KeepsEsr7Clear.refl h fun hbit => absurd (show (0#32).getLsbD 7 = true from hbit) (by decide)
  | svr => exact setUnit_keepsEsr7Clear h (writeSvr_esr u x)
  | lvt l => exact .setUnit KeepsEsr7Clear.refl h (writeLvt_keepsEsr7Clear u l x i)
  | timerIcr => exact setUnit_keepsEsr7Clear h (setInitialCount_esr u s.vt x)
  | icrLo =>
    rw [writeEffect, writeIcrLo, sendFromIcr_state]
    exact setUnit_keepsEsr7Clear h rfl
  | tpr | ldr | dfr | icrHi | timerDcr => exact setUnit_keepsEsr7Clear h rfl
  | _ => exact .of_units_eq KeepsEsr7Clear.refl rfl

end

/-- An MSR read changes no unit (R226). -/
theorem readMsr_units {s t : State} {i : Nat} {idx : Word32} (h : exec (.readMsr i idx) s = .next t) :
    t.units = s.units := by
  cases h
  unfold onUnit
  split
  · rfl
  · beta_reduce
    split_ifs
    · rfl
    · rfl
    · split
      · rfl
      · split_ifs <;> rfl

theorem planWriteMsr_keepsEsr7Clear (s : State) (i : Nat) (idx : Word32) (x : Word64) (p : Bool) :
    State.EachUnit KeepsEsr7Clear s (planWriteMsr i idx x p s).state := by
  have hfault : State.EachUnit KeepsEsr7Clear s s := .of_units_eq KeepsEsr7Clear.refl rfl
  refine .planOnUnit KeepsEsr7Clear.refl fun u hu => ?_
  split_ifs
  · exact hfault
  · exact hfault
  · split
    · exact hfault
    · split_ifs
      · exact hfault
      · exact hfault
      · exact hfault
      · exact hfault
      · rw [writeIcr64, sendFromIcr_state]
        exact setUnit_keepsEsr7Clear hu rfl
      · exact writeEffect_keepsEsr7Clear _ _ p hu

/-- Settles O13: at the undefined offsets no register stands; an MSR write keeps ESR[7] clear step by step. -/
theorem undefinedOffset : Obligations.UndefinedOffset := by
  refine ⟨fun s i u off x p h hoff => ⟨readReg_undefined h hoff, writeReg_undefined h hoff x p⟩, ?_⟩
  rintro s t i c (⟨idx, rfl⟩ | ⟨idx, x, p, rfl⟩) ht j u u' hu hu'
  · rw [readMsr_units ht, hu] at hu'
    cases hu'
    exact id
  · cases ht
    have hsteps := complete_eachUnit KeepsEsr7Clear.refl (fun _ _ _ _ h h' => h ∘ h')
      (planWriteMsr_keepsEsr7Clear s i idx x p) fun _ _ _ _ _ hdoes => hdoes.keepsEsr7Clear
    exact hsteps.get hu hu'

/-! ## The checks of the MSR port -/

section
variable {s : State} {i : Nat} {u : ApicUnit} {idx : Word32} (hu : s.units[i]? = some u)
include hu

theorem readMsr_disallowed (hmax : s.cfg.maxMode ≠ .x2apic) :
    exec (.readMsr i idx) s = .next (s.respond (.gpFault .readDisallowedConfig)) := by
  simp [exec, execReadMsr, onUnit, hu, hmax, State.raiseGpFault]

theorem writeMsr_disallowed (hmax : s.cfg.maxMode ≠ .x2apic) (x : Word64) (p : Bool) :
    exec (.writeMsr i idx x p) s = .next (s.respond (.gpFault .writeDisallowedConfig)) := by
  simp [exec, execWriteMsr, planWriteMsr, planOnUnit, hu, hmax, Plan.gpFault]

variable (hmax : s.cfg.maxMode = .x2apic)
include hmax

theorem readMsr_wrongMode (hmode : u.mode ≠ .x2apic) :
    exec (.readMsr i idx) s = .next (s.respond (.gpFault .invalidReadMode)) := by
  simp [exec, execReadMsr, onUnit, hu, hmax, hmode, State.raiseGpFault]

theorem writeMsr_wrongMode (hmode : u.mode ≠ .x2apic) (x : Word64) (p : Bool) :
    exec (.writeMsr i idx x p) s = .next (s.respond (.gpFault .invalidWriteMode)) := by
  simp [exec, execWriteMsr, planWriteMsr, planOnUnit, hu, hmax, hmode, Plan.gpFault]

variable (hmode : u.mode = .x2apic)
include hmode

theorem readMsr_unknown (hreg : s.cfg.msrReg idx = none) :
    exec (.readMsr i idx) s = .next (s.respond (.gpFault .readRsvdOrUnknown)) := by
  simp [exec, execReadMsr, onUnit, hu, hmax, hmode, hreg, State.raiseGpFault]

theorem readMsr_writeOnly {r : Reg} (hreg : s.cfg.msrReg idx = some r) (ha : r.msrAccess = .wo) :
    exec (.readMsr i idx) s = .next (s.respond (.gpFault .readWriteOnly)) := by
  simp [exec, execReadMsr, onUnit, hu, hmax, hmode, hreg, ha, State.raiseGpFault]

theorem writeMsr_unknown (hreg : s.cfg.msrReg idx = none) (x : Word64) (p : Bool) :
    exec (.writeMsr i idx x p) s = .next (s.respond (.gpFault .writeRsvdOrUnknown)) := by
  simp [exec, execWriteMsr, planWriteMsr, planOnUnit, hu, hmax, hmode, hreg, Plan.gpFault]

variable {r : Reg} (hreg : s.cfg.msrReg idx = some r)
include hreg

theorem writeMsr_readOnly (ha : r.msrAccess = .ro) (x : Word64) (p : Bool) :
    exec (.writeMsr i idx x p) s = .next (s.respond (.gpFault .writeReadOnly)) := by
  simp [exec, execWriteMsr, planWriteMsr, planOnUnit, hu, hmax, hmode, hreg, ha, Plan.gpFault]

/-- The test of bits 63:32 of a 32-bit register answers as the test of the mask does (R227). -/
theorem writeMsr_reserved (ha : r.msrAccess ≠ .ro) {x : Word64} (hx : x &&& ~~~(s.cfg.msrMask r) ≠ 0) (p : Bool) :
    exec (.writeMsr i idx x p) s = .next (s.respond (.gpFault .writeRsvdBits)) := by
  simp only [exec, execWriteMsr, planWriteMsr, planOnUnit, hu, hmax, hmode, hreg, if_neg ha, if_pos hx, ite_self]
  rfl

end

theorem writeMsr_forbidden {s : State} {i : Nat} {u : ApicUnit} {idx : Word32} (h : MsrReaches s i u)
    (hreg : s.cfg.msrReg idx = some .icrLo) {x : Word64} (hx : x &&& ~~~(s.cfg.msrMask .icrLo) = 0)
    (hpair : (x.extractLsb' 8 3, x.extractLsb' 18 2) ∈ s.cfg.icrComboIllegal) (p : Bool) :
    exec (.writeMsr i idx x p) s = .next (s.respond (.gpFault .writeInvalid)) := by
  obtain ⟨hu, hmode, hmax, -⟩ := h
  simp [exec, execWriteMsr, planWriteMsr, planOnUnit, hu, hmax, hmode, hreg, Reg.msrAccess, hx, hpair, Plan.gpFault]

/-- A value inside a mask has no bit outside it. -/
theorem outside_of_inside {w : Nat} {x m : BitVec w} (h : x &&& m = x) : x &&& ~~~m = 0 := by
  rw [← h, BitVec.and_comm x]
  exact outside_and x (BitVec.and_not_self m)

/-- The read-only registers of the MSR port (R53). -/
theorem msrReadOnlyOffsets_register : ∀ off ∈ msrReadOnlyOffsets, off < 0x400 ∧
    (standardRegMap.lookup off).any fun r => decide (r.msrAccess = .ro) := by decide

/-- The writable registers of the MSR port and their masks (R53, R232). -/
theorem msrWriteMasks_register : ∀ tsc : Bool, ∀ row ∈ msrWriteMasks tsc, row.1 % 16 = 0 ∧ row.1 < 0x400 ∧
    (standardRegMap.lookup row.1).any fun r =>
      decide ((r.msrAccess = .rw ∨ r.msrAccess = .wo) ∧ (standardTables tsc).msrMask r = row.2) := by decide

/-- Settles O22, by the lemma of each check. -/
theorem readMsrFaults : Obligations.ReadMsrFaults := by
  intro s i u idx hu hs faults
  refine ⟨readMsr_disallowed hu, readMsr_wrongMode hu, fun hmax hmode hidx => ?_, ?_⟩
  · exact readMsr_unknown hu hmax hmode (msrReg_unknown hs hidx)
  · rintro hmax hmode rfl
    exact readMsr_writeOnly hu hmax hmode (msrReg_standard hs (by decide) (by decide) standardRegMap_eoi (by decide)) rfl

/-- Settles O23, by the lemma of each check; the registers of the two tables are those of `msrReadOnlyOffsets_register` and
`msrWriteMasks_register`. -/
theorem writeMsrFaults : Obligations.WriteMsrFaults := by
  intro s i u idx x p hu hs faults
  refine ⟨fun hmax => writeMsr_disallowed hu hmax x p, fun hmax hmode => writeMsr_wrongMode hu hmax hmode x p,
    fun hmax hmode => ⟨fun hidx => ?unknown, fun hle hoff => ?readOnly, fun row hrow hidx hx => ?reserved, ?forbidden⟩⟩
  case unknown => exact writeMsr_unknown hu hmax hmode (msrReg_unknown hs hidx) x p
  case readOnly =>
    obtain ⟨hlt, hany⟩ := msrReadOnlyOffsets_register _ hoff
    obtain ⟨r, hr, ha⟩ := Option.any_eq_true _ _ |>.mp hany
    have ha := of_decide_eq_true ha
    exact writeMsr_readOnly hu hmax hmode (msrReg_standard hs (by omega) hle hr (by simp [ha])) ha x p
  case reserved =>
    obtain ⟨hmod, hlt, hany⟩ := msrWriteMasks_register _ _ hrow
    obtain ⟨r, hr, ha⟩ := Option.any_eq_true _ _ |>.mp hany
    obtain ⟨ha, hmask⟩ := of_decide_eq_true ha
    have hoff : (idx.toNat - 0x800) * 16 = row.1 := by omega
    have hreg : s.cfg.msrReg idx = some r :=
      msrReg_standard hs (by omega) (by omega) (hoff ▸ hr) (by rcases ha with ha | ha <;> simp [ha])
    rw [← hmask, ← msrMask_standard hs] at hx
    exact writeMsr_reserved hu hmax hmode hreg (by rcases ha with ha | ha <;> simp [ha]) hx p
  case forbidden =>
    rintro rfl hx hpair
    refine writeMsr_forbidden ⟨hu, hmode, hmax, hs⟩ (msrReg_icr hs) ?_ hpair p
    rw [msrMask_standard hs]
    exact outside_of_inside hx

end Sys2Proof.Machine
end

section
/-! The register writes, on either port: TPR (O15), EOI and TIMER_ICR (O16), SVR (O17), the writes that only store (O18), the
LVT entries (O19) and the ICR (O20). A write of a register by its offset or its index is its write effect with the value the
mask of R232 leaves; what the effect does to the unit is said once for each register. -/

namespace Sys2Proof.Machine

/-! ## A write by offset and by index -/

/-- The register at an offset that the MMIO port writes (R53). -/
abbrev WritesAt (off : Word32) (r : Reg) : Prop :=
  badOffset off = false ∧ standardRegMap.lookup off.toNat = some r ∧ r.mmioAccess ≠ .ro

/-- The 32-bit register at an index that the MSR port writes (R52, R53). -/
abbrev MsrWritesAt (idx : Word32) (r : Reg) : Prop :=
  (idx.toNat < 0x840 ∧ 0x800 ≤ idx.toNat) ∧ standardRegMap.lookup ((idx.toNat - 0x800) * 16) = some r ∧
    (r.msrAccess = .rw ∨ r.msrAccess = .wo) ∧ r ≠ .icrLo

section
variable {s : State} {i : Nat} {u : ApicUnit} {r : Reg}

/-- An MMIO write is the write effect with the value masked (R222, R232). -/
theorem exec_writeReg {off : Word32} (h : MmioReaches s i u) (hat : WritesAt off r) {m : Word32}
    (hm : (standardTables s.cfg.tscDeadlineAvail).mmioMask r = m) (x : Word32) (p : Bool) :
    exec (.writeReg i off x p) s = .next (writeEffect s i u r (x &&& m) p).complete := by
  have ⟨_, _, hs⟩ := h
  obtain ⟨hb, hr, ha⟩ := hat
  rw [writeReg_effect h hb hr ha, mmioMask_standard hs, hm]

/-- An MSR write of an admitted value is the write effect with it (R227, R232). -/
theorem exec_writeMsr {idx : Word32} (h : MsrReaches s i u) (hat : MsrWritesAt idx r) {m : Word32}
    (hm : (standardTables s.cfg.tscDeadlineAvail).msrMask r = m.setWidth 64) {x : Word32} (hx : x &&& m = x) (p : Bool) :
    exec (.writeMsr i idx (x.setWidth 64) p) s = .next (writeEffect s i u r x p).complete := by
  have ⟨_, _, _, hs⟩ := h
  obtain ⟨⟨hlt, hle⟩, hr, ha, hne⟩ := hat
  refine writeMsr_effect h hlt hle hr ha hne ?_
  rw [msrMask_standard hs, hm]
  exact setWidth_mask_ok hx

end

/-! ## What a write does to the unit -/

/-- A value within the mask of TPR is its own low byte (R232, R235). -/
theorem low_byte_of_inside {x : Word32} (h : x &&& 0xFF#32 = x) : (x.extractLsb' 0 8).setWidth 32 = x := by
  refine BitVec.eq_of_toNat_eq ?_
  have hlow := congrArg BitVec.toNat h
  simp only [BitVec.toNat_and, BitVec.toNat_ofNat] at hlow
  rw [show 255 % 2 ^ 32 = 2 ^ 8 - 1 from rfl, Nat.and_two_pow_sub_one_eq_mod] at hlow
  simp only [BitVec.toNat_setWidth, BitVec.extractLsb'_toNat, Nat.shiftRight_zero]
  omega

theorem inside_and {w : Nat} (x m : BitVec w) : x &&& m &&& m = x &&& m := by
  rw [BitVec.and_assoc, BitVec.and_self]

section
variable (u : ApicUnit) (x : Word32)

/-- A TPR write; `INTR` does not depend on TPR and PPR (R123, R235). -/
theorem writeTpr_byte {x : Word32} (h : x &&& 0xFF#32 = x) :
    u.writeTpr x = { u with tpr := x, ppr := pprValue x u.isr, intr := u.intrValue } := by
  rw [ApicUnit.writeTpr, low_byte_of_inside h]
  rfl

/-- An SVR write, by whether software-enable goes from 1 to 0 (R237). -/
theorem writeSvr_eq : u.writeSvr x =
    if u.svr.getLsbD 8 = true ∧ x.getLsbD 8 = false then { u with svr := x }.maskAllLvts else { u with svr := x } := by
  simp [ApicUnit.writeSvr, ApicUnit.softEnabled]

/-- The entries that an LVT write checks: timer, error, and those with delivery mode Fixed (R243). -/
theorem lvtWriteMode_fixed_iff (l : Lvt) :
    lvtWriteMode l x = .fixed ↔ l = .timer ∨ l = .error ∨ x.extractLsb' 8 3 = 0#3 := by
  have hfield : deliveryModeField x = .fixed ↔ x.extractLsb' 8 3 = 0#3 := deliveryModeField_iff
  cases l <;> simp [lvtWriteMode, hfield]

/-- An LVT write (R243). -/
theorem writeLvt_eq (l : Lvt) : u.writeLvt l x =
    if (l = .timer ∨ l = .error ∨ x.extractLsb' 8 3 = 0#3) ∧ (x.extractLsb' 0 8).toNat ≤ 15 then
      (u.setLvt l ((u.lvt l &&& 0x4000#32) ||| x)).orEsr esrSendIllegal
    else u.setLvt l ((u.lvt l &&& 0x4000#32) ||| x) :=
  if_congr (and_congr (lvtWriteMode_fixed_iff x l) decide_eq_true_iff) rfl rfl

end

/-- The six LVT entries on both ports (R53, R232). -/
theorem lvtRows_register : ∀ tsc : Bool, ∀ row ∈ lvtRows tsc, WritesAt row.1 (.lvt row.2.1) ∧
    MsrWritesAt (0x800#32 + (row.1 >>> 4)) (.lvt row.2.1) ∧ (standardTables tsc).mmioMask (.lvt row.2.1) = row.2.2 := by
  decide

/-! ## A send from a stored ICR -/

/-- `SEND_IPI_FROM_ICR` where the unit has just been stored (R205). -/
theorem exec_sendIpi_stored {s : State} {i : Nat} {u : ApicUnit} (h : s.units[i]? = some u) (p : Bool) (u' : ApicUnit) :
    exec (.sendIpiFromIcr i p) (s.setUnit i u') = .next (sendFromIcr (s.setUnit i u') i u' p).complete := by
  refine congrArg Host.Outcome.next ?_
  rw [planSendIpiFromIcr, planOnUnit_some (setUnit_getElem? h u')]

/-- An MSR write of the 64-bit ICR that passes the checks (R227, R242). -/
theorem exec_writeMsr_icr {s : State} {i : Nat} {u : ApicUnit} {idx : Word32} (h : MsrReaches s i u)
    (hreg : s.cfg.msrReg idx = some .icrLo) {x : Word64} (hx : x &&& ~~~(s.cfg.msrMask .icrLo) = 0)
    (hpair : (x.extractLsb' 8 3, x.extractLsb' 18 2) ∉ s.cfg.icrComboIllegal) (p : Bool) :
    exec (.writeMsr i idx x p) s = .next (writeIcr64 s i u x p).complete := by
  obtain ⟨hu, hmode, hmax, -⟩ := h
  simp [exec, execWriteMsr, planWriteMsr, planOnUnit, hu, hmax, hmode, hreg, Reg.msrAccess, hx, hpair]

/-! ## The statements -/

/-- Settles O20: what is left of each write is the send in the stored state. -/
theorem writeIcrSends : Obligations.WriteIcrSends := by
  refine ⟨fun s i u x p h => ⟨?_, exec_writeReg (r := .icrHi) h (by decide) rfl x p⟩, fun s i u x p h hx hpair => ?_⟩
  · have ⟨hu, _⟩ := h
    rw [exec_writeReg (r := .icrLo) h (by decide) rfl x p]
    exact (exec_sendIpi_stored hu p _).symm
  · have ⟨hu, _, _, hs⟩ := h
    rw [exec_writeMsr_icr h (msrReg_icr hs) (by rw [msrMask_standard hs]; exact outside_of_inside hx) hpair p]
    exact (exec_sendIpi_stored hu p _).symm

/-- Settles O15, by `writeTpr_byte` on either port. -/
theorem writeTpr : Obligations.WriteTpr := by
  intro s i u x p
  refine ⟨fun h => ?_, fun h hx => ?_⟩
  · rw [exec_writeReg (r := .tpr) (m := 0xFF#32) h (by decide) rfl x p, writeEffect, writeTpr_byte u (inside_and x _)]
    rfl
  · rw [exec_writeMsr (r := .tpr) (m := 0xFF#32) h (by decide) rfl hx p, writeEffect, writeTpr_byte u hx]
    rfl

/-- Settles O16: the write effects are those of the two commands. -/
theorem writeRunsCommand : Obligations.WriteRunsCommand := by
  intro s i u x y p
  have hall : x &&& 0xFFFFFFFF#32 = x := BitVec.and_allOnes
  refine ⟨fun h => ⟨?_, ?_⟩, fun h => ⟨?_, ?_⟩⟩
  all_goals have ⟨hu, _⟩ := h
  · rw [exec_writeReg (r := .eoi) h (by decide) rfl x p, exec_eoi hu y]
    rfl
  · rw [exec_writeReg (r := .timerIcr) h (by decide) rfl x p, exec_setInitialCount hu x]
    exact congrArg (fun n => Host.Outcome.next ((s.setUnit i (u.setInitialCount s.vt n)).respond .ok)) hall
  · rw [exec_eoi hu y]
    exact exec_writeMsr (r := .eoi) (m := 0) (x := 0) h (by decide) rfl rfl p
  · rw [exec_setInitialCount hu x]
    exact exec_writeMsr (r := .timerIcr) (m := 0xFFFFFFFF#32) h (by decide) rfl hall p

/-- Settles O17, by `writeSvr_eq` on either port. -/
theorem writeSvr : Obligations.WriteSvr := by
  intro s i u x p result
  have hresult : ∀ y, .next (writeEffect s i u .svr y p).complete = result y := by
    intro y
    rw [writeEffect, writeSvr_eq]
    rfl
  exact ⟨fun h => (exec_writeReg (r := .svr) h (by decide) rfl x p).trans (hresult _),
    fun h hx => (exec_writeMsr (r := .svr) (m := 0x1FF#32) h (by decide) rfl hx p).trans (hresult x)⟩

/-- Settles O18: the effect of each of these writes is the store alone. -/
theorem writeStores : Obligations.WriteStores := by
  constructor
  · intro s i u x p h result
    refine ⟨?ldr, ?dfr, ?esr, ?icrHi, ?timerDcr⟩
    case ldr => exact exec_writeReg (r := .ldr) h (by decide) rfl x p
    case dfr => exact exec_writeReg (r := .dfr) h (by decide) rfl x p
    case esr => exact exec_writeReg (r := .esr) h (by decide) rfl x p
    case icrHi => exact exec_writeReg (r := .icrHi) h (by decide) rfl x p
    case timerDcr => exact exec_writeReg (r := .timerDcr) h (by decide) rfl x p
  · intro s i u x p h
    exact ⟨exec_writeMsr (r := .esr) (m := 0) (x := 0) h (by decide) rfl rfl p,
      fun hx => exec_writeMsr (r := .timerDcr) (m := 0xB#32) h (by decide) rfl hx p⟩

/-- Settles O19: the register of each row by `lvtRows_register`, its effect by `writeLvt_eq`. -/
theorem writeLvt : Obligations.WriteLvt := by
  intro s i u x p row hrow result
  obtain ⟨hat, hmsr, hmask⟩ := lvtRows_register _ row hrow
  have hresult : ∀ y, .next (writeEffect s i u (.lvt row.2.1) y p).complete = result y := by
    intro y
    rw [writeEffect, writeLvt_eq]
    rfl
  exact ⟨fun h => (exec_writeReg h hat hmask x p).trans (hresult _),
    fun h hx => (exec_writeMsr h hmsr (congrArg (·.setWidth 64) hmask) hx p).trans (hresult x)⟩

end Sys2Proof.Machine
end

section
/-! BASE and the mode: `GET_BASE` (O24) and the base values `SET_BASE` accepts (O25). -/

namespace Sys2Proof.Machine

/-! ## The mode -/

/-- The four values of bits 11 and 10 of BASE (R36). -/
theorem modeOf_iff (base : Word64) :
    (modeOf base = .disabled ↔ base.getLsbD 11 = false ∧ base.getLsbD 10 = false) ∧
    (modeOf base = .xapic ↔ base.getLsbD 11 = true ∧ base.getLsbD 10 = false) ∧
    (modeOf base = .x2apic ↔ base.getLsbD 11 = true ∧ base.getLsbD 10 = true) ∧
    (modeOf base = .invalid ↔ base.getLsbD 11 = false ∧ base.getLsbD 10 = true) := by
  unfold modeOf
  cases base.getLsbD 11 <;> cases base.getLsbD 10 <;> simp

/-- Settles O24: the answer is BASE, and the decode is `modeOf_iff`. -/
theorem getBaseAnswers : Obligations.GetBaseAnswers :=
  ⟨fun _ _ _ h => congrArg Host.Outcome.next (onUnit_some h _), fun u => modeOf_iff u.base⟩

/-! ## Accepted base values -/

section
variable {s : State} {i : Nat} {u : ApicUnit} {x : Word64} (h : s.units[i]? = some u)
  (hbits : x &&& baseReservedMask = 0) (haddr : x.extractLsb' 12 24 = s.cfg.apicBaseAddr.extractLsb' 12 24)
include h hbits haddr

/-- A legal transition within the maximum mode is made (R250, R251). -/
theorem exec_setBase_accepted (hmax : modeRank (modeOf x) ≤ modeRank s.cfg.maxMode)
    (hlegal : legalTransition u.mode (modeOf x) = true) :
    exec (.setBase i x) s = .next ((s.setUnit i (u.changeBase s.cfg i x)).respond .ok) := by
  have hvalid : modeOf x ≠ .invalid := by
    intro hinv
    rw [hinv] at hlegal
    cases hu : u.mode <;> simp [hu, legalTransition] at hlegal
  have hok : baseRejected s.cfg u x = false := by
    simp [baseRejected, hbits, haddr, hvalid, hmax, hlegal]
  simp [exec, execSetBase, onUnit, h, hok]

/-- A transition that neither enables the unit nor enters x2APIC mode only stores the value (R252). -/
theorem exec_setBase_stored {old new : Mode} (hold : u.mode = old) (hnew : modeOf x = new)
    (hmax : modeRank new ≤ modeRank s.cfg.maxMode) (hlegal : legalTransition old new = true)
    (hstore : new = .disabled ∨ new = old) :
    exec (.setBase i x) s = .next ((s.setUnit i { u with base := x }).respond .ok) := by
  rw [exec_setBase_accepted h hbits haddr (hnew ▸ hmax) (by rwa [hold, hnew]), ApicUnit.changeBase, hold, hnew]
  rcases hstore with rfl | rfl
  · cases old <;> rfl
  · cases new <;> rfl

end

/-- Settles O25, transition by transition. -/
theorem setBaseAccepts : Obligations.SetBaseAccepts := by
  intro s i u x hu hbits haddr accepts
  have hxapic : s.cfg.maxMode = .xapic ∨ s.cfg.maxMode = .x2apic → modeRank .xapic ≤ modeRank s.cfg.maxMode :=
    fun hmax => modeRank_xapic_le (by rcases hmax with hmax | hmax <;> simp [hmax])
  have hx2apic : s.cfg.maxMode = .x2apic → modeRank .x2apic ≤ modeRank s.cfg.maxMode := fun h => h ▸ le_refl _
  refine ⟨fun hold hnew hmax => ?enable, fun hold hnew hmax => ?enterX2apic, ?disable, fun hold hnew => ?stayDisabled,
    fun hold hnew hmax => ?stayXapic, fun hold hnew hmax => ?stayX2apic⟩
  case enable =>
    have hexec := exec_setBase_accepted hu hbits haddr (hnew ▸ hxapic hmax) (by rw [hold, hnew]; rfl)
    simp only [ApicUnit.changeBase, hold, hnew, ApicUnit.regsReset, if_true] at hexec
    exact hexec
  case enterX2apic =>
    have hexec := exec_setBase_accepted hu hbits haddr (hnew ▸ hx2apic hmax) (by rw [hold, hnew]; rfl)
    rwa [ApicUnit.changeBase, hold, hnew] at hexec
  case disable =>
    rintro (hold | hold) hnew
    · exact exec_setBase_stored hu hbits haddr hold hnew (Nat.zero_le _) rfl (.inl rfl)
    · exact exec_setBase_stored hu hbits haddr hold hnew (Nat.zero_le _) rfl (.inl rfl)
  case stayDisabled => exact exec_setBase_stored hu hbits haddr hold hnew (Nat.zero_le _) rfl (.inl rfl)
  case stayXapic => exact exec_setBase_stored hu hbits haddr hold hnew (hxapic hmax) rfl (.inr rfl)
  case stayX2apic => exact exec_setBase_stored hu hbits haddr hold hnew (hx2apic hmax) rfl (.inr rfl)

end Sys2Proof.Machine
end

section
/-! The base values `SET_BASE` rejects (O26), beside those it accepts (O25). -/

namespace Sys2Proof.Machine

/-- A rejected value answers `GP_FAULT_BASE` and changes nothing (R250, R262). -/
theorem exec_setBase_rejected {s : State} {i : Nat} {u : ApicUnit} {x : Word64} (h : s.units[i]? = some u)
    (hrej : baseRejected s.cfg u x = true) : exec (.setBase i x) s = .next s.raiseGpFaultBase := by
  refine congrArg Host.Outcome.next ((onUnit_some h _).trans ?_)
  rw [hrej, if_pos rfl]

/-- Settles O26: each cause R262 lists contradicts one of the five checks an accepted value passes. -/
theorem setBaseRejects : Obligations.SetBaseRejects := by
  intro s i u x hu hcause
  refine exec_setBase_rejected hu (Bool.not_eq_false _ ▸ fun haccepted => ?_)
  obtain ⟨hbits, haddr, hvalid, hmax, hlegal⟩ := baseRejected_eq_false haccepted
  obtain h | h | h | ⟨hc, hmode⟩ | ⟨hc, hmode⟩ | ⟨hold, hnew⟩ | ⟨hold, hnew⟩ := hcause
  · exact h hbits
  · exact h haddr
  · exact hvalid h
  · rw [hc] at hmax
    exact Nat.not_le_of_lt (modeRank_xapic_le hmode) hmax
  · rw [hc, hmode] at hmax
    exact absurd hmax (by decide)
  · rw [hold, hnew] at hlegal
    exact absurd hlegal (by decide)
  · rw [hold, hnew] at hlegal
    exact absurd hlegal (by decide)

end Sys2Proof.Machine
end

section
/-! What reaches a unit that a command does not address (O59): posts, the receive-illegal flag of ESR and the signal
flags (R276). Every other step of a command acts on the unit that it addresses. -/

namespace Sys2Proof.Machine

/-! ## What a unit receives -/

theorem and_not_or_self {w : Nat} (x m : BitVec w) : x &&& ~~~(x ||| m) = 0 := by
  rw [BitVec.not_or, ← BitVec.and_assoc, BitVec.and_not_self]
  exact BitVec.zero_and

/-- In any store, canonical or not, a vector written with a tag other than the unlisted one reads as that tag. -/
theorem TagStore.read_write_listed {t : TagStore} {v : Nat} {g : Word32} (hg : g ≠ TagStore.unlisted) :
    TagStore.read (TagStore.write t v g) v = g := by
  have hentry : ∀ rest, TagStore.read (TagStore.entry v g rest) v = g := by
    intro rest
    rw [TagStore.entry, if_neg hg, TagStore.read, if_pos rfl]
  induction t with
  | nil => exact hentry []
  | cons e rest ih =>
    obtain ⟨k, x⟩ := e
    rw [TagStore.write]
    split_ifs with hlt heq
    · exact hentry _
    · exact hentry _
    · rw [TagStore.read, if_neg (Ne.symm heq), ih]

/-- ORing bits into the tag of a vector takes none from any tag (R152). -/
theorem TagStore.read_write_gains (t : TagStore) (v : Nat) (g : Word32) (w : Nat) :
    t.read w &&& ~~~((t.write v (t.read v ||| g)).read w) = 0 := by
  by_cases hw : v = w
  · subst hw
    by_cases hg : t.read v ||| g = TagStore.unlisted
    · have hzero : t.read v = 0 := (BitVec.or_eq_zero_iff.mp hg).1
      rw [hzero]
      exact BitVec.zero_and
    · rw [TagStore.read_write_listed hg]
      exact and_not_or_self _ _
  · rw [TagStore.read_write_other hw]
    exact BitVec.and_not_self _

/-- A bitmap that only gains vectors and its flag (R32). -/
structure Pib.Gains (p p' : Pib) : Prop where
  bits : p.bits &&& ~~~p'.bits = 0
  notify : p.notify = true → p'.notify = true

theorem Pib.Gains.refl (p : Pib) : p.Gains p := ⟨BitVec.and_not_self _, id⟩

theorem Pib.Gains.trans {p p' p'' : Pib} (h : p.Gains p') (h' : p'.Gains p'') : p.Gains p'' :=
  ⟨outside_trans h.bits h'.bits, h'.notify ∘ h.notify⟩

/-- `OnlyReceives` with its parts named. -/
structure ApicUnit.Receives (u u' : ApicUnit) : Prop where
  frame : u' = { u with
    esr := u'.esr, pibE := u'.pibE, pibL := u'.pibL, tag := u'.tag, nmi := u'.nmi, smi := u'.smi, extint := u'.extint }
  esr : u'.esr = u.esr ∨ u'.esr = u.esr ||| 0x40#32
  pibE : u.pibE.Gains u'.pibE
  pibL : u.pibL.Gains u'.pibL
  tag : ∀ v : Nat, u.tag.read v &&& ~~~(u'.tag.read v) = 0
  nmi : u.nmi = true → u'.nmi = true
  smi : u.smi = true → u'.smi = true
  extint : u.extint = true → u'.extint = true

theorem ApicUnit.Receives.onlyReceives {u u' : ApicUnit} (h : u.Receives u') : u.OnlyReceives u' :=
  ⟨h.frame, h.esr, h.pibE.bits, h.pibE.notify, h.pibL.bits, h.pibL.notify, h.tag, h.nmi, h.smi, h.extint⟩

namespace ApicUnit.Receives

theorem refl (u : ApicUnit) : u.Receives u where
  frame := rfl
  esr := .inl rfl
  pibE := .refl _
  pibL := .refl _
  tag := fun _ => BitVec.and_not_self _
  nmi := fun h => h
  smi := fun h => h
  extint := fun h => h

theorem trans {u u' u'' : ApicUnit} (h : u.Receives u') (h' : u'.Receives u'') : u.Receives u'' where
  frame := by
    refine h'.frame.trans ?_
    rw [h.frame]
  esr := by
    obtain hesr' | hesr' := h'.esr
    · rw [hesr']
      exact h.esr
    · refine .inr ?_
      obtain hesr | hesr := h.esr
      · rw [hesr', hesr]
      · rw [hesr', hesr, BitVec.or_assoc, BitVec.or_self]
  pibE := h.pibE.trans h'.pibE
  pibL := h.pibL.trans h'.pibL
  tag := fun v => outside_trans (h.tag v) (h'.tag v)
  nmi := h'.nmi ∘ h.nmi
  smi := h'.smi ∘ h.smi
  extint := h'.extint ∘ h.extint

theorem setPib (u : ApicUnit) {trig : Trigger} {p : Pib} (h : (u.pib trig).Gains p) : u.Receives (u.setPib trig p) := by
  cases trig with
  | edge => exact { refl u with frame := rfl, pibE := h }
  | level => exact { refl u with frame := rfl, pibL := h }

/-- Step 1 of a post (R152). -/
theorem stagePost (u : ApicUnit) (v : Vec) (trig : Trigger) (tag : Word32) : u.Receives (u.stagePost v trig tag) := by
  have hbits : u.Receives (u.setPib trig ⟨setVec (u.pib trig).bits v, (u.pib trig).notify⟩) :=
    setPib u ⟨and_not_or_self _ _, fun h => h⟩
  refine hbits.trans { refl _ with tag := fun w => ?_ }
  rw [ApicUnit.setPib_tag]
  exact TagStore.read_write_gains u.tag v.toNat tag w

/-- Step 2 of a post (R152). -/
theorem setNotify (u : ApicUnit) (trig : Trigger) : u.Receives (u.setNotify trig) :=
  setPib u ⟨BitVec.and_not_self _, fun _ => rfl⟩

theorem raiseSignal (u : ApicUnit) (sig : Signal) : u.Receives (u.raiseSignal sig) := by
  cases sig with
  | nmi => exact { refl u with frame := rfl, nmi := fun _ => rfl }
  | smi => exact { refl u with frame := rfl, smi := fun _ => rfl }
  | extint => exact { refl u with frame := rfl, extint := fun _ => rfl }

/-- A post of an illegal vector (R152, R263). -/
theorem receiveError (u : ApicUnit) : u.Receives (u.orEsr esrReceiveIllegal) :=
  { refl u with frame := rfl, esr := .inr rfl }

end ApicUnit.Receives

/-! ## The atomic steps -/

/-- The one unit to which a step may do more than a unit receives: the one folded, the sender whose error is recorded, the
one whose LINT0 is latched (R156, R202, R211). -/
def AtomicStep.ownUnit? : AtomicStep → Option Nat
  | .recordSendError i => some i
  | .foldNotify i _ => some i
  | .foldWord i _ _ => some i
  | .latchLint0 i => some i
  | _ => none

/-- Unit j only receives, unless it is the one addressed. -/
def ReceivesUnless (addressed : Option Nat) (j : Nat) (u u' : ApicUnit) : Prop := addressed ≠ some j → u.Receives u'

theorem ReceivesUnless.refl (o : Option Nat) (j : Nat) (u : ApicUnit) : ReceivesUnless o j u u := fun _ => .refl u

theorem ReceivesUnless.trans {o : Option Nat} (j : Nat) (u u' u'' : ApicUnit) (h : ReceivesUnless o j u u')
    (h' : ReceivesUnless o j u' u'') : ReceivesUnless o j u u'' :=
  fun hj => (h hj).trans (h' hj)

/-- A step changes a unit that is not its own only by what the unit receives (R276). -/
theorem AtomicStep.Does.receivesUnless {a : AtomicStep} {j : Nat} {u u' : ApicUnit} (h : a.Does j u u') :
    ReceivesUnless a.ownUnit? j u u' := by
  intro hj
  cases h with
  | nothing => exact .refl u
  | receiveError => exact .receiveError u
  | stagePost _ v trig tag => exact .stagePost u v trig tag
  | setNotify _ trig => exact .setNotify u trig
  | raiseSignal _ sig => exact .raiseSignal u sig
  | _ => exact absurd rfl hj

theorem postSteps_ownUnit (t : Nat) (v : Vec) (trig : Trigger) (tag : Word32) :
    ∀ a ∈ postSteps t v trig tag, a.ownUnit? = none := by
  simp [postSteps, AtomicStep.ownUnit?]

theorem targetSteps_ownUnit (v : Vec) (trig : Trigger) (dm : DeliveryMode) (tag : Word32) (seen : Nat → Option Bool)
    (t : Nat) : ∀ a ∈ targetSteps v trig dm tag seen t, a.ownUnit? = none := by
  cases dm <;> simp [targetSteps, postSteps, AtomicStep.ownUnit?]

theorem foldSteps_ownUnit (i : Nat) : ∀ a ∈ foldSteps i, a.ownUnit? = some i := by
  simp [foldSteps, AtomicStep.ownUnit?]

/-- Of the steps of a send only the last one has a unit of its own, the sender (R200, R202). -/
theorem sendSteps_ownUnit {sender : Option Nat} {v : Vec} {trig : Trigger} {dm : DeliveryMode} {targets : List Nat}
    {tag : Word32} {seen : Nat → Option Bool} {a : AtomicStep}
    (h : a ∈ sendSteps sender v trig dm targets tag seen) : a.ownUnit? = none ∨ a.ownUnit? = sender := by
  obtain htarget | herror := List.mem_append.mp h
  · obtain ⟨t, -, ht⟩ := List.mem_flatMap.mp htarget
    exact .inl (targetSteps_ownUnit v trig dm tag seen t a ht)
  · split at herror
    · obtain ⟨t, ht, rfl⟩ := List.mem_map.mp herror
      exact .inr (Option.mem_toList.mp ht).symm
    · cases herror

/-! ## The commands of several steps -/

/-- The first step of a plan and each step that is left act on the addressed unit alone, but for what units receive. -/
structure IsolatedPlan (addressed : Option Nat) (s : State) (p : Plan) : Prop where
  state : State.EachUnit (ReceivesUnless addressed) s p.state
  todo : ∀ a ∈ p.todo, a.ownUnit? = none ∨ a.ownUnit? = addressed

/-- An isolated plan run whole (R276). -/
theorem IsolatedPlan.complete {o : Option Nat} {s : State} {p : Plan} (h : IsolatedPlan o s p) :
    State.EachUnit (ReceivesUnless o) s p.complete := by
  refine complete_eachUnit (ReceivesUnless.refl o) ReceivesUnless.trans h.state fun a ha j u u' hdoes hj => ?_
  obtain hnone | howner := h.todo a ha
  · exact hdoes.receivesUnless (by simp [hnone])
  · exact hdoes.receivesUnless (by rwa [howner])

/-- A change of the addressed unit, whatever it is. -/
theorem setUnit_isolated {s : State} {i : Nat} {u : ApicUnit} (h : s.units[i]? = some u) (u' : ApicUnit) :
    State.EachUnit (ReceivesUnless (some i)) s (s.setUnit i u') :=
  .setUnit (ReceivesUnless.refl _) h fun hi => absurd rfl hi

theorem units_eq_isolated {s t : State} (o : Option Nat) (h : t.units = s.units) :
    State.EachUnit (ReceivesUnless o) s t :=
  .of_units_eq (ReceivesUnless.refl o) h

theorem endOfInterrupt_isolated {s : State} {i : Nat} {u : ApicUnit} (h : s.units[i]? = some u) :
    State.EachUnit (ReceivesUnless (some i)) s (s.endOfInterrupt i u) := by
  unfold State.endOfInterrupt
  split
  · exact units_eq_isolated _ rfl
  · exact setUnit_isolated (s := s.emit _) h _

namespace IsolatedPlan

variable {o : Option Nat} {s t : State} {i : Nat} {u : ApicUnit}

theorem done (h : State.EachUnit (ReceivesUnless o) s t) (st : Status) : IsolatedPlan o s (Plan.done t st) :=
  ⟨h, nofun⟩

theorem unchanged (o : Option Nat) (s : State) (st : Status) : IsolatedPlan o s (Plan.done s st) :=
  done (units_eq_isolated o rfl) st

theorem setUnit (h : s.units[i]? = some u) (u' : ApicUnit) (st : Status) :
    IsolatedPlan (some i) s (Plan.done (s.setUnit i u') st) :=
  done (setUnit_isolated h u') st

theorem planOnUnit {k : ApicUnit → Plan} (h : ∀ u, s.units[i]? = some u → IsolatedPlan o s (k u)) :
    IsolatedPlan o s (planOnUnit s i k) := by
  unfold Machine.planOnUnit
  split
  · exact unchanged o s _
  · rename_i u hu
    exact h u hu

/-- A send of the addressed unit, or of none (R200, R209). -/
theorem send (h : State.EachUnit (ReceivesUnless o) s t) {v : Vec} {trig : Trigger} {dm : DeliveryMode}
    {targets : List Nat} {tag : Word32} {priv : Bool} {read : List Nat} {after : List AtomicStep} {finish : Finish}
    (hafter : ∀ a ∈ after, a.ownUnit? = o) :
    IsolatedPlan o s (sendPlan t o v trig dm targets tag priv read after finish) := by
  unfold sendPlan
  split
  · exact done h _
  · refine ⟨h, fun a ha => ?_⟩
    obtain hsend | hlast := List.mem_append.mp ha
    · exact sendSteps_ownUnit hsend
    · exact .inr (hafter a hlast)

theorem sendFromIcr (h : State.EachUnit (ReceivesUnless (some i)) s t) (u : ApicUnit) (priv : Bool) :
    IsolatedPlan (some i) s (sendFromIcr t i u priv) := by
  unfold Machine.sendFromIcr
  split
  · exact done h _
  · split
    · exact done h _
    · exact send h nofun

/-- A register write changes the unit written and may send from its ICR (R235 to R246). -/
theorem writeEffect (h : s.units[i]? = some u) (r : Reg) (x : Word32) (priv : Bool) :
    IsolatedPlan (some i) s (writeEffect s i u r x priv) := by
  cases r with
  | eoi => exact done (endOfInterrupt_isolated h) _
  | icrLo => exact sendFromIcr (setUnit_isolated h _) _ priv
  | tpr | svr | ldr | dfr | esr | icrHi | lvt _ | timerIcr | timerDcr => exact setUnit h _ _
  | _ => exact unchanged _ s _

theorem writeReg (i : Nat) (off x : Word32) (priv : Bool) (s : State) :
    IsolatedPlan (some i) s (planWriteReg i off x priv s) := by
  refine planOnUnit fun u hu => ?_
  split_ifs
  · exact unchanged _ s _
  · exact unchanged _ s _
  · split
    · exact unchanged _ s _
    · split_ifs
      · exact unchanged _ s _
      · exact writeEffect hu _ _ priv

theorem writeMsr (i : Nat) (idx : Word32) (x : Word64) (priv : Bool) (s : State) :
    IsolatedPlan (some i) s (planWriteMsr i idx x priv s) := by
  refine planOnUnit fun u hu => ?_
  split_ifs
  · exact unchanged _ s _
  · exact unchanged _ s _
  · split
    · exact unchanged _ s _
    · split_ifs
      · exact unchanged _ s _
      · exact unchanged _ s _
      · exact unchanged _ s _
      · exact unchanged _ s _
      · exact sendFromIcr (setUnit_isolated hu _) _ priv
      · exact writeEffect hu _ _ priv

theorem timerExpire (i : Nat) (s : State) : IsolatedPlan (some i) s (planTimerExpire i s) := by
  refine planOnUnit fun u hu => ?_
  split
  · refine ⟨setUnit_isolated hu _, fun a ha => ?_⟩
    dsimp only at ha
    split at ha
    · cases ha
    · exact .inl (postSteps_ownUnit _ _ _ _ a ha)
  · exact unchanged _ s _

theorem busDeliver (v : Vec) (dm : DeliveryMode) (d : DestMode) (trig : Trigger) (pol : Bool) (tag mask : Word32)
    (priv : Bool) (s : State) : IsolatedPlan none s (planBusDeliver v dm d trig pol tag mask priv s) := by
  unfold planBusDeliver
  split
  · exact unchanged none s _
  · exact send (units_eq_isolated none rfl) nofun

theorem localFixed (s : State) (i : Nat) (u : ApicUnit) (pin : Pin) (priv : Bool) :
    IsolatedPlan (some i) s (localFixed s i u pin priv) := by
  simp only [Machine.localFixed]
  split
  · exact unchanged _ s _
  · refine send (units_eq_isolated _ rfl) fun a ha => ?_
    split at ha
    · obtain rfl := List.mem_singleton.mp ha
      rfl
    · cases ha

theorem localInterrupt (i : Nat) (pin : Pin) (level priv : Bool) (s : State) :
    IsolatedPlan (some i) s (planLocalInterrupt i pin level priv s) := by
  refine planOnUnit fun u hu => ?_
  simp only []
  split
  · exact unchanged _ s _
  · split
    · exact unchanged _ s _
    · cases deliveryModeField (u.lvt (pinLvt pin))
      case extInt => exact setUnit hu _ _
      all_goals cases level
      case fixed.true => exact localFixed s i u pin priv
      case smi.true | nmi.true | init.true =>
        simp only [if_true]
        exact send (units_eq_isolated _ rfl) nofun
      all_goals exact unchanged _ s _

/-- Every command of several steps, with the unit it addresses (R81, R276). -/
theorem of_planOf {c : Instr} {p : Plan} (h : planOf c s = some p) : IsolatedPlan c.unit? s p := by
  cases c with
  | writeReg i off x priv => cases h; exact writeReg i off x priv s
  | writeMsr i idx x priv => cases h; exact writeMsr i idx x priv s
  | post i v trig tag =>
    cases h
    exact planOnUnit fun _ _ => ⟨units_eq_isolated _ rfl, fun a ha => .inl (postSteps_ownUnit i v trig tag a ha)⟩
  | fold i =>
    cases h
    exact planOnUnit fun _ _ => ⟨units_eq_isolated _ rfl, fun a ha => .inr (foldSteps_ownUnit i a ha)⟩
  | timerExpire i => cases h; exact timerExpire i s
  | sendIpiFromIcr i priv => cases h; exact planOnUnit fun u _ => sendFromIcr (units_eq_isolated _ rfl) u priv
  | busDeliver v dm d trig pol tag mask priv => cases h; exact busDeliver v dm d trig pol tag mask priv s
  | localInterrupt i pin level priv => cases h; exact localInterrupt i pin level priv s
  | _ => cases h

end IsolatedPlan

/-! ## Every command -/

theorem onUnit_isolated {s : State} {i : Nat} {k : ApicUnit → State}
    (h : ∀ u, s.units[i]? = some u → State.EachUnit (ReceivesUnless (some i)) s (k u)) :
    State.EachUnit (ReceivesUnless (some i)) s (onUnit s i k) :=
  .onUnit (ReceivesUnless.refl _) h

/-- A command of one atomic step changes no unit but the one it addresses (R276). -/
theorem exec_single_isolated {c : Instr} {s t : State} (hp : planOf c s = none) (h : exec c s = .next t) :
    State.EachUnit (ReceivesUnless c.unit?) s t := by
  cases c with
  | readMsr i idx => exact units_eq_isolated _ (readMsr_units h)
  | readReg i off =>
    cases h
    refine onUnit_isolated fun u hu => ?_
    split_ifs
    · exact units_eq_isolated _ rfl
    · exact units_eq_isolated _ rfl
    · split
      · exact setUnit_isolated hu _
      · exact units_eq_isolated _ rfl
  | setBase i x =>
    cases h
    refine onUnit_isolated fun u hu => ?_
    split_ifs
    · exact units_eq_isolated _ rfl
    · exact setUnit_isolated hu _
  | getNext i =>
    cases h
    refine onUnit_isolated fun u hu => ?_
    split_ifs
    · exact units_eq_isolated _ rfl
    · split
      · exact units_eq_isolated _ rfl
      · split_ifs
        · exact units_eq_isolated _ rfl
        · exact units_eq_isolated _ rfl
        · exact setUnit_isolated hu _
  | eoi i x => cases h; exact onUnit_isolated fun u hu => endOfInterrupt_isolated hu
  | getBase i | getCurrentCount i => cases h; exact onUnit_isolated fun _ _ => units_eq_isolated _ rfl
  | reset i | init i | updatePpr i | signalIfPending i | queueToService i v | dequeueFromService i v
  | setInitialCount i n | stopTimer i => cases h; exact onUnit_isolated fun u hu => setUnit_isolated hu _
  | _ => cases hp

/-- Settles O59: a command of one step changes its own unit alone, and each step of the others is isolated. -/
theorem unitsIsolated : Obligations.UnitsIsolated := by
  intro c s t j u u' h hj hu hu'
  have hisolated : State.EachUnit (ReceivesUnless c.unit?) s t := by
    cases hp : planOf c s with
    | none => exact exec_single_isolated hp h
    | some p =>
      rw [exec_of_planOf hp] at h
      cases h
      exact (IsolatedPlan.of_planOf hp).complete
  exact (hisolated.get hu hu' hj).onlyReceives

end Sys2Proof.Machine
end

section
/-! `RESET` (O8), `INIT` (O9) and the state the machine starts in (O10). -/

namespace Sys2Proof.Machine

/-! ## The commands on a unit that exists -/

section
variable {s : State} {i : Nat} {u : ApicUnit} (h : s.units[i]? = some u)
include h

/-- `RESET` writes every element, so what the unit held before plays no part (R291). -/
theorem exec_reset : exec (.reset i) s = .next ((s.setUnit i (ApicUnit.afterReset s.cfg i)).respond .ok) :=
  congrArg Host.Outcome.next (onUnit_some h _)

theorem exec_init : exec (.init i) s = .next ((s.setUnit i (u.regsReset s.cfg i false)).respond .ok) :=
  congrArg Host.Outcome.next (onUnit_some h _)

end

/-! ## The values they leave -/

/-- `BASE` after `RESET` as R291 has it: enabled when the platform allows APICs. -/
theorem resetBase_eq (c : Config) (i : Nat) :
    resetBase c i = c.apicBaseAddr ||| (if c.maxMode ≠ .disabled then 0x800#64 else 0#64) |||
      (if i = 0 then 0x100#64 else 0#64) := by
  rw [resetBase, ite_not]
  rfl

/-- `REGS_RESET` without `full` derives LDR in x2APIC mode, bits 11 and 10 of BASE both set, and clears it in every other
mode (R292). -/
theorem ApicUnit.regsReset_ldr (c : Config) (i : Nat) (u : ApicUnit) :
    (u.regsReset c i false).ldr =
      if u.base.getLsbD 11 = true ∧ u.base.getLsbD 10 = true then x2apicLdr i else 0 := by
  obtain ⟨-, -, hx2apic, -⟩ := modeOf_iff u.base
  simp only [ApicUnit.regsReset, ApicUnit.mode, hx2apic, Bool.not_false, Bool.true_and, decide_eq_true_eq]

/-- Settles O8: the unit becomes `ApicUnit.afterReset`, whose one computed element is BASE. -/
theorem resetResult : Obligations.ResetResult := by
  intro s i hi
  rw [exec_reset (List.getElem?_eq_getElem hi), ← resetBase_eq]
  rfl

/-- Settles O9: the unit goes through `REGS_RESET` without `full`, whose one computed element is LDR. -/
theorem initResult : Obligations.InitResult := by
  intro s i u hu
  rw [exec_init hu, ← x2apicLdr, ← ApicUnit.regsReset_ldr s.cfg]
  rfl

/-! ## A unit after reset -/

section
variable {c : Config} (i : Nat)

theorem ApicUnit.mode_afterReset (hc : ConfigBaseOk c) :
    (ApicUnit.afterReset c i).mode = if c.maxMode = .disabled then .disabled else .xapic :=
  modeOf_resetBase i hc.1

theorem ApicUnit.afterReset_modeOk (hc : ConfigBaseOk c) : (ApicUnit.afterReset c i).ModeOk c := by
  refine ⟨?_, ?_, resetBase_address c i⟩ <;> rw [ApicUnit.mode_afterReset i hc] <;> split
  · decide
  · decide
  · exact Nat.zero_le _
  · exact modeRank_xapic_le ‹_›

/-- ID is the xAPIC one, and no unit is in x2APIC mode after reset (R13, R291). -/
theorem ApicUnit.afterReset_identityOk (hc : ConfigBaseOk c) : (ApicUnit.afterReset c i).IdentityOk c i := by
  refine ⟨rfl, fun _ => rfl, fun hm => ?_⟩
  rw [ApicUnit.mode_afterReset i hc] at hm
  split at hm <;> cases hm

theorem ApicUnit.afterReset_reserved (hc : ConfigMasksOk c) : (ApicUnit.afterReset c i).Reserved := by
  obtain ⟨-, -, -, -, -, -, -, -, -, -, -, -, haddr⟩ := hc
  exact { ApicUnit.allocated.regsReset_reserved c i true (resetBase_inside i haddr)
    fun _ => BitVec.extractLsb'_zero with }

end

/-! ## The initial state -/

/-- What holds of a unit after reset, whatever its index, holds of every unit of the initial state (R297). -/
theorem State.reset_units {P : ApicUnit → Prop} (h : ∀ i, P (ApicUnit.afterReset standardConfig i)) :
    ∀ u ∈ State.reset.units, P u :=
  List.forall_mem_map.mpr fun i _ => h i

theorem State.reset_getElem (i : Nat) (h : i < State.reset.units.length) :
    State.reset.units[i] = ApicUnit.afterReset standardConfig i := by
  simp [State.reset]

theorem standardConfig_baseOk : ConfigBaseOk standardConfig := by decide

theorem standardConfig_masksOk : ConfigMasksOk standardConfig := by decide

/-- `RESET` puts back the unit that is there, and its response word is the initial one (log 3). -/
theorem exec_reset_reset (i : Nat) (h : i < State.reset.units.length) :
    exec (.reset i) State.reset = .next State.reset := by
  have hunit : State.reset.setUnit i (ApicUnit.afterReset standardConfig i) = State.reset := by
    rw [State.setUnit, ← State.reset_getElem i h, List.set_getElem_self]
  have hrsp : State.reset.respond .ok = State.reset := rfl
  calc exec (.reset i) State.reset
      = .next ((State.reset.setUnit i (ApicUnit.afterReset standardConfig i)).respond .ok) :=
        exec_reset (List.getElem?_eq_getElem h)
    _ = .next State.reset := by rw [hunit, hrsp]

/-- Settles O10: each invariant of the units holds of a unit after reset, for every index and legal configuration; the
others look at the number of units, `VT` and the empty list of outstanding commands. -/
theorem resetState : Obligations.ResetState := by
  have hbase := standardConfig_baseOk
  have hmasks := standardConfig_masksOk
  refine ⟨exec_reset_reset, rfl, ?ncpu, ?ppr, ?mode, ?identity, ?timer, ?memory, ?reserved, ?flight⟩
  case ncpu => decide
  case ppr => exact State.reset_units fun i => ApicUnit.allocated.regsReset_pprOk standardConfig i true
  case mode => exact ⟨hbase, State.reset_units fun i => ApicUnit.afterReset_modeOk i hbase⟩
  case identity =>
    refine ⟨hbase, fun i hi => ?_⟩
    rw [State.reset_getElem]
    exact ApicUnit.afterReset_identityOk i hbase
  case timer => exact ⟨Nat.zero_le _, State.reset_units fun i => ApicUnit.timerOk_of_stopped _ rfl⟩
  case memory => exact List.all_eq_true.mpr (State.reset_units fun _ => TagStore.wf_nil)
  case reserved =>
    exact ⟨hmasks, State.reset_units fun i => reservedOk_iff.mpr (ApicUnit.afterReset_reserved i hmasks)⟩
  case flight => exact ⟨List.nodup_nil, nofun⟩

end Sys2Proof.Machine
end

section
/-! Who may issue a command, and what the inputs do that hand the machine no command or one it refuses (O6). -/

namespace Sys2Proof.Machine

/-! ## Who may issue a command -/

/-- The table of R305: the reset is the Environment's, `INIT` is shared with it, four commands are any agent's, and every
other command is the owner's. -/
theorem mayIssue_iff (a : Agent) (c : Instr) : mayIssue a c = true ↔
    (∃ i, c = .reset i ∧ a = .environment) ∨ (∃ i, c = .init i ∧ (a = .owner i ∨ a = .environment)) ∨
    (∃ t v trig tag, c = .post t v trig tag) ∨ (∃ i, c = .timerExpire i) ∨
    (∃ v dm d t pol g m p, c = .busDeliver v dm d t pol g m p) ∨ (∃ i pin l p, c = .localInterrupt i pin l p) ∨
    ((∀ i, c ≠ .reset i) ∧ ∃ i, c.unit? = some i ∧ a = .owner i) := by
  cases c with
  | reset i => simp [mayIssue]
  -- The last line of the table names the owner of `INIT` a second time.
  | init i => simpa [mayIssue, Instr.unit?] using Or.inl
  | post | timerExpire | busDeliver | localInterrupt => simp [mayIssue]
  | _ => simp [mayIssue, Instr.unit?]

/-! ## What the port refuses -/

section
variable {s : State} {a : Agent} {w : PortWord} {rest : List Input}

theorem takeWord_wrongAgent {c : Instr} {run : Instr → Host.Outcome State Fault Refusal} (hbusy : s.busy a = false)
    (hdec : decode w = .ok c) (hmay : mayIssue a c = false) : takeWord a w s run = .refused .wrongAgent := by
  simp [takeWord, hbusy, hdec, hmay]

theorem takeWord_busy {run : Instr → Host.Outcome State Fault Refusal} (hbusy : s.busy a = true) :
    takeWord a w s run = .refused .reentrantCall := by
  simp [takeWord, hbusy]

/-- A word handed to the port, whole or to be advanced, is taken in the state without that input. -/
theorem step_takeWord (hin : s.inputs = .issue a w :: rest ∨ s.inputs = .start a w :: rest) :
    ∃ run, step s = takeWord a w { s with inputs := rest } run := by
  rcases hin with hin | hin <;> exact ⟨_, step_cons hin⟩

theorem step_wrongAgent {c : Instr} (hin : s.inputs = .issue a w :: rest ∨ s.inputs = .start a w :: rest)
    (hfree : ∀ d ∈ s.inFlight, d.agent ≠ a) (hdec : decode w = .ok c) (hmay : mayIssue a c = false) :
    step s = .refused .wrongAgent := by
  obtain ⟨run, hstep⟩ := step_takeWord hin
  exact hstep.trans (takeWord_wrongAgent (not_busy_of_agent_ne hfree) hdec hmay)

theorem step_reentrantCall (hin : s.inputs = .issue a w :: rest ∨ s.inputs = .start a w :: rest)
    (hheld : ∃ d ∈ s.inFlight, d.agent = a) : step s = .refused .reentrantCall := by
  obtain ⟨run, hstep⟩ := step_takeWord hin
  have hbusy : ({ s with inputs := rest } : State).busy a = true := by simpa [State.busy] using hheld
  exact hstep.trans (takeWord_busy hbusy)

theorem step_nothingInFlight (hin : s.inputs = .advance a :: rest) (hfree : ∀ d ∈ s.inFlight, d.agent ≠ a) :
    step s = .refused .nothingInFlight := by
  have hnone : s.inFlight.find? (fun d => decide (d.agent = a)) = none := List.find?_eq_none.mpr (by simpa using hfree)
  rw [step_cons hin]
  simp only [runInput, hnone]

end

/-! ## The inputs of the Environment -/

section
variable {s : State} {rest : List Input}

theorem step_time {vt : Word64} (hin : s.inputs = .time vt :: rest) :
    step s = if s.vt.toNat ≤ vt.toNat ∧ vt.toNat ≤ vtBound then .next { s with inputs := rest, vt := vt }
      else .refused .clockPremise :=
  step_cons hin

theorem step_takeNmi {i : Nat} (hin : s.inputs = .takeNmi i :: rest) :
    step s = .next (({ s with inputs := rest } : State).mapUnit i fun u => { u with nmi := false }) :=
  step_cons hin

theorem step_takeSmi {i : Nat} (hin : s.inputs = .takeSmi i :: rest) :
    step s = .next (({ s with inputs := rest } : State).mapUnit i fun u => { u with smi := false }) :=
  step_cons hin

end

theorem mapUnit_missing {s : State} {i : Nat} (f : ApicUnit → ApicUnit) (h : s.units.length ≤ i) : s.mapUnit i f = s := by
  rw [State.mapUnit, List.getElem?_eq_none h]

/-- Settles O6: `mayIssue` is the table, the port refuses before it runs the command, and an input of the Environment
is what `runInput` says of it. -/
theorem inputsTakenOrRefused : Obligations.InputsTakenOrRefused := by
  refine ⟨mayIssue_iff, fun s a w rest c => step_wrongAgent, fun s a w rest => step_reentrantCall,
    fun s a rest => step_nothingInFlight, ?time, ?signal, ?missing, ?idle⟩
  case time =>
    intro s vt rest hin
    rw [step_time hin]
    refine ⟨fun hback hbound => if_pos ⟨hback, hbound⟩, fun hbad => if_neg fun ⟨hback, hbound⟩ => ?_⟩
    exact hbad.elim hback.not_gt (Nat.not_lt.mpr hbound)
  case signal =>
    intro s i u rest hu
    exact ⟨fun hin => (step_takeNmi hin).trans (congrArg Host.Outcome.next (mapUnit_some _ hu)),
      fun hin => (step_takeSmi hin).trans (congrArg Host.Outcome.next (mapUnit_some _ hu))⟩
  case missing =>
    rintro s i rest hi (hin | hin)
    · exact (step_takeNmi hin).trans (congrArg Host.Outcome.next (mapUnit_missing _ hi))
    · exact (step_takeSmi hin).trans (congrArg Host.Outcome.next (mapUnit_missing _ hi))
  case idle =>
    intro s hin
    rw [step, hin]

end Sys2Proof.Machine
end
